-- ==== Sys2Proof/Word.lean ====
section
/-! DEFINITION. The word types of the block (R8): no value of the block is signed, and a tick count is a natural number below
`2^TICK_W`, whose width is a parameter (R7, R37). -/

namespace Sys2Proof

/-- A `u8` (R8): an input byte, an address, a data byte. -/
abbrev Byte := BitVec 8

/-- A `u4` (R8): an opcode nibble, an instrument. -/
abbrev Nibble := BitVec 4

/-- A command word `cmd_op ++ cmd_addr ++ cmd_data` (R96). -/
abbrev CmdWord := BitVec 17

end Sys2Proof
end

