-- ==== Sys2Proof/Syntax.lean ====
section
/-! DEFINITION. The instructions: one constructor for each of the 44 rows of spec/opcode_table.json (R90 to R100), in the table's
order. An operand is a field of the row's encoding, bits the row ignores included, so that no bit of a word is lost. -/

namespace Sys2Proof

/-- The rows of the opcode table. "Operation" is the spec's word for an instruction (R2). -/
inductive Instr
  /-- NOTE_OFF_STATUS, input byte `1000iiii` (R92, R174). -/
  | noteOffStatus (instrument : Nibble)
  /-- NOTE_ON_STATUS, input byte `1001iiii` (R92, R173). -/
  | noteOnStatus (instrument : Nibble)
  /-- UNRECOGNISED_STATUS_A, input byte `1010xxxx` (R93, R175); the low nibble is not examined. -/
  | unrecognisedStatusA (ignored : Nibble)
  /-- UNRECOGNISED_STATUS_B, input byte `1011xxxx` (R93, R175); the low nibble is not examined. -/
  | unrecognisedStatusB (ignored : Nibble)
  /-- UNRECOGNISED_STATUS_C, input byte `1100xxxx` (R93, R175); the low nibble is not examined. -/
  | unrecognisedStatusC (ignored : Nibble)
  /-- UNRECOGNISED_STATUS_D, input byte `1101xxxx` (R93, R175); the low nibble is not examined. -/
  | unrecognisedStatusD (ignored : Nibble)
  /-- UNRECOGNISED_STATUS_E, input byte `1110xxxx` (R93, R175); the low nibble is not examined. -/
  | unrecognisedStatusE (ignored : Nibble)
  /-- UNRECOGNISED_STATUS_F, input byte `1111xxxx` (R93, R175); the low nibble is not examined. -/
  | unrecognisedStatusF (ignored : Nibble)
  /-- DATA_BYTE, input byte `0ddddddd` (R94, R176 to R180). -/
  | dataByte (value : BitVec 7)
  /-- WRITE, command word `0 aaaaaaaa dddddddd` (R96, R121). -/
  | write (address data : Byte)
  /-- CHIP_RESET, command word `1 x...x` (R96, R146); the low 16 bits are ignored. -/
  | chipReset (ignored : BitVec 16)
  /-- PHASE_IDLE, phase 0 (R98, R120). -/
  | phaseIdle
  /-- W0, phase 1 (R98, R122). -/
  | w0
  /-- W1, phase 2 (R98, R123). -/
  | w1
  /-- W2, phase 3 (R98, R124). -/
  | w2
  /-- W3, phase 4 (R98, R125). -/
  | w3
  /-- W4, phase 5 (R98, R126). -/
  | w4
  /-- W5, phase 6 (R98, R127). -/
  | w5
  /-- W6, phase 7 (R98, R128). -/
  | w6
  /-- W7, phase 8 (R98, R129). -/
  | w7
  /-- W8, phase 9 (R98, R130). -/
  | w8
  /-- W9, phase 10 (R98, R131). -/
  | w9
  /-- W10, phase 11 (R98, R132). -/
  | w10
  /-- W11, phase 12 (R98, R133). -/
  | w11
  /-- W12, phase 13 (R98, R134). -/
  | w12
  /-- W13, phase 14 (R98, R135). -/
  | w13
  /-- W14, phase 15 (R98, R136). -/
  | w14
  /-- W15, phase 16 (R98, R137). -/
  | w15
  /-- W16, phase 17 (R98, R138). -/
  | w16
  /-- W17, phase 18 (R98, R139). -/
  | w17
  /-- W18, phase 19 (R98, R140). -/
  | w18
  /-- X0, phase 20 (R98, R146). -/
  | x0
  /-- X1, phase 21 (R98, R147). -/
  | x1
  /-- X2, phase 22 (R98, R148). -/
  | x2
  /-- X3, phase 23 (R98, R149). -/
  | x3
  /-- STATE_AwaitingStatus, decoder state 0 (R21, R176). -/
  | stateAwaitingStatus
  /-- STATE_AwaitingNote, decoder state 1 (R21, R177). -/
  | stateAwaitingNote
  /-- STATE_AwaitingVelocity, decoder state 2 (R21, R178 to R180). -/
  | stateAwaitingVelocity
  /-- REG_RHYTHM_DISABLE, target address `00001110` (R61, R100). -/
  | regRhythmDisable
  /-- REG_FREQ_LOW, target address `0001iiii` (R61, R100). -/
  | regFreqLow (voice : Nibble)
  /-- REG_OCT_GATE, target address `0010iiii` (R61, R100). -/
  | regOctGate (voice : Nibble)
  /-- REG_INST_VOL, target address `0011iiii` (R61, R100). -/
  | regInstVol (voice : Nibble)
  /-- EVENT_OFF, event word `0 iiii 0nnnnnnn 00000000` (R97). -/
  | eventOff (instrument : Nibble) (note : BitVec 7)
  /-- EVENT_ON, event word `1 iiii 0nnnnnnn 0vvvvvvv` (R97); the velocity is never 0. -/
  | eventOn (instrument : Nibble) (note velocity : BitVec 7)
  deriving DecidableEq, Repr

end Sys2Proof
end

