-- ==== Sys2Proof/WellFormed.lean ====
section
/-! DEFINITION. The checks on an instruction that its fields' widths do not already make. -/

namespace Sys2Proof

/-- An `On` event has a velocity of 1 to 127 (R97, R189: "An `On` event with velocity 0 cannot occur"). Every other
combination of fields is legal (R96, R101). -/
def Instr.wellFormed : Instr → Bool
  | .eventOn _ _ velocity => velocity != 0#7
  | _ => true

/-- The voice index of a per-voice target address is below the voice count `n` (R61: `0 <= i < N`). BUS does not check it
(R63); it is a check for a model of the host or the target. -/
def Instr.voiceInRange (n : Nat) : Instr → Bool
  | .regFreqLow i => decide (i.toNat < n)
  | .regOctGate i => decide (i.toNat < n)
  | .regInstVol i => decide (i.toNat < n)
  | _ => true

end Sys2Proof
end

