-- ==== Sys2Proof/Decode.lean ====
section
/-! DEFINITION. Decoding of the six word formats of spec/opcode_table.json (30_encoding.md), total on any number, refusing by name;
and after it the encoder, written from the same rows. The block never has to guess a format: a byte arrives on the input
port, a command on the command port, a phase stands in `bus.phase`. `decodeTableWord` is given a width only, and its choice among
formats of one width is log entry 4. -/

namespace Sys2Proof

/-- The formats of the opcode table. -/
inductive Format
  | inputByte | busCommand | busPhase | decState | targetAddress | noteEvent
  deriving DecidableEq, Repr

/-- The width of a format in bits (R90, R96, R98, R21, R60, R97). -/
def Format.width : Format → Nat
  | .inputByte => 8
  | .busCommand => 17
  | .busPhase => 5
  | .decState => 2
  | .targetAddress => 8
  | .noteEvent => 21

/-- Why a number is no instruction of a format. -/
inductive Reject
  /-- The number has a bit above the format's width. -/
  | tooWide
  /-- Phases 24 to 31 are unreachable (R98, U14). -/
  | unreachablePhase
  /-- A target address the source does not list (R61, R69): it has no row. -/
  | unlistedAddress
  /-- A 21-bit word that no NoteEvent packs to (R97). -/
  | notAnEvent
  deriving DecidableEq, Repr

/-! ## Decoding -/

/-- An input byte: bit 7 alone decides the class (R90), a status byte's row is its high nibble (R91 to R93). Every byte has a row
(R101). -/
def decodeInputByte (b : Byte) : Instr :=
  if b.getLsbD 7 then
    let low := b.extractLsb' 0 4
    match (b.extractLsb' 4 3).toNat with
    | 0 => .noteOffStatus low
    | 1 => .noteOnStatus low
    | 2 => .unrecognisedStatusA low
    | 3 => .unrecognisedStatusB low
    | 4 => .unrecognisedStatusC low
    | 5 => .unrecognisedStatusD low
    | 6 => .unrecognisedStatusE low
    | _ => .unrecognisedStatusF low
  else .dataByte (b.extractLsb' 0 7)

/-- A command word (R96): every one of the `2^17` words is a command. -/
def decodeCommand (w : CmdWord) : Instr :=
  if w.getLsbD 16 then .chipReset (w.extractLsb' 0 16) else .write (w.extractLsb' 8 8) (w.extractLsb' 0 8)

/-- A phase number (R98). -/
def decodePhase (n : Nat) : Option Instr :=
  match n with
  | 0 => some .phaseIdle
  | 1 => some .w0
  | 2 => some .w1
  | 3 => some .w2
  | 4 => some .w3
  | 5 => some .w4
  | 6 => some .w5
  | 7 => some .w6
  | 8 => some .w7
  | 9 => some .w8
  | 10 => some .w9
  | 11 => some .w10
  | 12 => some .w11
  | 13 => some .w12
  | 14 => some .w13
  | 15 => some .w14
  | 16 => some .w15
  | 17 => some .w16
  | 18 => some .w17
  | 19 => some .w18
  | 20 => some .x0
  | 21 => some .x1
  | 22 => some .x2
  | 23 => some .x3
  | _ => none

/-- A decoder state number (R21): the value 3 behaves as `AwaitingStatus`. -/
def decodeState (w : BitVec 2) : Instr :=
  match w.toNat with
  | 1 => .stateAwaitingNote
  | 2 => .stateAwaitingVelocity
  | _ => .stateAwaitingStatus

/-- A target address (R61, R100); an address the source does not list has no row. -/
def decodeTarget (b : Byte) : Option Instr :=
  match (b.extractLsb' 4 4).toNat with
  | 0 => if b.extractLsb' 0 4 = 0xE#4 then some .regRhythmDisable else none
  | 1 => some (.regFreqLow (b.extractLsb' 0 4))
  | 2 => some (.regOctGate (b.extractLsb' 0 4))
  | 3 => some (.regInstVol (b.extractLsb' 0 4))
  | _ => none

/-- An event word (R97), by the table's masks: bit 15 is 0, an `Off` carries velocity 0, an `On` has bit 7 clear. That an `On` has
a velocity above 0 is a matter of `Instr.wellFormed`. -/
def decodeEvent (w : BitVec 21) : Option Instr :=
  if w.getLsbD 15 then none
  else if w.getLsbD 20 then
    if w.getLsbD 7 then none
    else some (.eventOn (w.extractLsb' 16 4) (w.extractLsb' 8 7) (w.extractLsb' 0 7))
  else if w.extractLsb' 0 8 = 0#8 then some (.eventOff (w.extractLsb' 16 4) (w.extractLsb' 8 7))
  else none

/-- The decoder: the instruction a number stands for in a format, or why it is none. -/
def decode (f : Format) (w : Nat) : Except Reject Instr :=
  if w < 2 ^ f.width then
    match f with
    | .inputByte => .ok (decodeInputByte (BitVec.ofNat 8 w))
    | .busCommand => .ok (decodeCommand (BitVec.ofNat 17 w))
    | .busPhase => match decodePhase w with
      | some i => .ok i
      | none => .error .unreachablePhase
    | .decState => .ok (decodeState (BitVec.ofNat 2 w))
    | .targetAddress => match decodeTarget (BitVec.ofNat 8 w) with
      | some i => .ok i
      | none => .error .unlistedAddress
    | .noteEvent => match decodeEvent (BitVec.ofNat 21 w) with
      | some i => .ok i
      | none => .error .notAnEvent
  else .error .tooWide

/-- The format a whole-byte word is read in when nothing but its width is known (log entry 4): one byte 1 to 23 is a micro-step,
one byte 0x20 to 0x3F a target address, any other byte an input byte; three bytes below `2^17` are a command, any other an
event. A width that is exactly one format's own (2, 5, 17, 21) is read in that format. -/
def tableFormat (nbits w : Nat) : Option Format :=
  match nbits with
  | 2 => some .decState
  | 5 => some .busPhase
  | 8 => if 1 ≤ w ∧ w ≤ 23 then some .busPhase else if 0x20 ≤ w ∧ w ≤ 0x3F then some .targetAddress else some .inputByte
  | 17 => some .busCommand
  | 21 => some .noteEvent
  | 24 => if w < 2 ^ 17 then some .busCommand else some .noteEvent
  | _ => none

/-- The instruction the decoder reads from a word of the opcode table's numbering. -/
def decodeTableWord (nbits w : Nat) : Option Instr :=
  match tableFormat nbits w with
  | none => none
  | some f => match decode f w with
    | .ok i => some i
    | .error _ => none

/-! ## Encoding -/

/-- The format of an instruction's row. -/
def Instr.format : Instr → Format
  | .noteOffStatus _ | .noteOnStatus _ | .unrecognisedStatusA _ | .unrecognisedStatusB _ | .unrecognisedStatusC _
  | .unrecognisedStatusD _ | .unrecognisedStatusE _ | .unrecognisedStatusF _ | .dataByte _ => .inputByte
  | .write _ _ | .chipReset _ => .busCommand
  | .phaseIdle | .w0 | .w1 | .w2 | .w3 | .w4 | .w5 | .w6 | .w7 | .w8 | .w9 | .w10 | .w11 | .w12 | .w13 | .w14 | .w15 | .w16 | .w17 | .w18 | .x0 | .x1 | .x2 | .x3 => .busPhase
  | .stateAwaitingStatus | .stateAwaitingNote | .stateAwaitingVelocity => .decState
  | .regRhythmDisable | .regFreqLow _ | .regOctGate _ | .regInstVol _ => .targetAddress
  | .eventOff _ _ | .eventOn _ _ _ => .noteEvent

/-- The word of an instruction in its own format. -/
def encode : Instr → Nat
  | .noteOffStatus i => (0x8#4 ++ i).toNat
  | .noteOnStatus i => (0x9#4 ++ i).toNat
  | .unrecognisedStatusA x => (0xA#4 ++ x).toNat
  | .unrecognisedStatusB x => (0xB#4 ++ x).toNat
  | .unrecognisedStatusC x => (0xC#4 ++ x).toNat
  | .unrecognisedStatusD x => (0xD#4 ++ x).toNat
  | .unrecognisedStatusE x => (0xE#4 ++ x).toNat
  | .unrecognisedStatusF x => (0xF#4 ++ x).toNat
  | .dataByte d => (0#1 ++ d).toNat
  | .write a d => (0#1 ++ a ++ d).toNat
  | .chipReset x => (1#1 ++ x).toNat
  | .phaseIdle => 0
  | .w0 => 1
  | .w1 => 2
  | .w2 => 3
  | .w3 => 4
  | .w4 => 5
  | .w5 => 6
  | .w6 => 7
  | .w7 => 8
  | .w8 => 9
  | .w9 => 10
  | .w10 => 11
  | .w11 => 12
  | .w12 => 13
  | .w13 => 14
  | .w14 => 15
  | .w15 => 16
  | .w16 => 17
  | .w17 => 18
  | .w18 => 19
  | .x0 => 20
  | .x1 => 21
  | .x2 => 22
  | .x3 => 23
  | .stateAwaitingStatus => 0
  | .stateAwaitingNote => 1
  | .stateAwaitingVelocity => 2
  | .regRhythmDisable => 0x0E
  | .regFreqLow i => (0x1#4 ++ i).toNat
  | .regOctGate i => (0x2#4 ++ i).toNat
  | .regInstVol i => (0x3#4 ++ i).toNat
  | .eventOff i n => (0#1 ++ i ++ 0#1 ++ n ++ 0#8).toNat
  | .eventOn i n v => (1#1 ++ i ++ 0#1 ++ n ++ 0#1 ++ v).toNat

end Sys2Proof
end

