-- ==== Sys2Proof/Config.lean ====
section
/-! DEFINITION. The free values of the model: what the spec leaves open. Every constant here has no body, so no proof can see
its value and a claim holds whatever it is. -/

namespace Sys2Proof.Config

/-! ## OPEN parameters (R7): `State.reset` brings each into R7's constraint (log entry 2) -/

/-- `TICK_W - 1` (R7: `TICK_W >= 1`). -/
opaque openTickW : Nat
/-- `T_SETTLE` before it is brought below `2^TICK_W`. -/
opaque openSettle : Nat
/-- `T_ADDR_LATCH` before it is brought below `2^TICK_W`. -/
opaque openAddrLatch : Nat
/-- `T_DATA_LATCH` before it is brought below `2^TICK_W`. -/
opaque openDataLatch : Nat
/-- `T_RESET_PARK` before it is brought below `2^TICK_W`. -/
opaque openResetPark : Nat
/-- `T_TICK - 1`, in a unit of time of the platform's choosing (R7: `T_TICK > 0`). -/
opaque openTickPeriod : Nat
/-- `N - 1` before it is brought below 16 (R7: `1 <= N <= 16`). -/
opaque openVoices : Nat
/-- Whether `LAYOUT` puts the gate bit in the register at `0x10+i` (true) or `0x20+i` (false) (C4 of 90_conflicts.md). -/
opaque openGateInFreqRegister : Bool
/-- `FREQ_TABLE` (R7, R203): the twelve frequency codes, C first. -/
opaque openFreqTable : Vector (BitVec 16) 12

/-! ## `LAYOUT` and the velocity mapping (R207, R208, R211; N9, N13, N23): the bytes the host packs -/

/-- `InstVol(instrument, velocity)` (R207). -/
opaque instVol : Nibble → Byte → Byte
/-- `FreqReg(note)` (R207): the note, with its frequency code and octave. -/
opaque freqReg : Byte → BitVec 16 → BitVec 3 → Byte
/-- `OctGateReg(note, gate)` (R207): the note, with its frequency code and octave, and the gate. -/
opaque octGateReg : Byte → BitVec 16 → BitVec 3 → Bool → Byte
/-- `GateOffReg(slot)` (R208), of the slot's note, instrument and status. -/
opaque gateOffReg : Byte → Nibble → Bool → Byte

/-! ## What a key index stands for (R210, N17) -/

/-- The note of a key. -/
opaque keyNote : Nat → Byte
/-- The instrument of a key. -/
opaque keyInstrument : Nat → Nibble
/-- The velocity of a pressed key. -/
opaque keyVelocity : Nat → Byte

/-! ## Values unspecified after the block's reset (R44, U16, U17), one for each reset (log entry 3) -/

/-- `bus.addr`. -/
opaque freeAddr : Nat → Byte
/-- `bus.data`. -/
opaque freeData : Nat → Byte
/-- `bus.t0`, before it is brought below `2^TICK_W`. -/
opaque freeT0 : Nat → Nat
/-- `tick`, before it is brought below `2^TICK_W`. -/
opaque freeTick : Nat → Nat
/-- Whether the unspecified `dec.ev` is an `On`. -/
opaque freeEventBit : Nat → Bool
/-- The note of the unspecified `dec.ev`. -/
opaque freeNote : Nat → Byte
/-- The instrument of the unspecified `dec.ev`. -/
opaque freeNibble : Nat → Nibble
/-- The velocity of the unspecified `dec.ev`. -/
opaque freeVelocity : Nat → Byte

/-! ## The target's state where it is "any value" (R152, U1, U5, U7), one for each time that it becomes so (log entry 12) -/

/-- The address latch. -/
opaque chipByte : Nat → Byte
/-- `chip.reg`: the byte at each address. -/
opaque chipReg : Nat → Nat → Byte

end Sys2Proof.Config
end

