-- ==== Sys2Proof/Machine/State.lean ====
section
/-! DEFINITION. The state of the block (R20), its parameters (R7), its ports (R42), the observer of its lines (R152) and the host
around it (R200 to R216), all plain data; and the state after reset (R44). Field names are the spec's. -/

namespace Sys2Proof.Machine

/-! ## Parameters (R7) -/

/-- A level of a line: low or high (R9). -/
inductive Level
  | l | h
  deriving DecidableEq, Repr

/-- `IDLE_DRIVE` (R7): what an `Idle` control line is electrically. -/
inductive IdleDrive
  | h | z
  deriving DecidableEq, Repr

/-- Which per-voice register holds the gate bit under `LAYOUT` (R208, C4): `0x10+i` or `0x20+i`. -/
inductive GateReg
  | freq | octGate
  deriving DecidableEq, Repr

/-- The implementation parameters (R7), "the model takes the following as arguments". They stand in the state so that a claim
over every state is a claim over every parameter value; no step changes them. -/
structure Params where
  /-- `TICK_W`, the width of the tick counter. -/
  tickW : Nat
  /-- `T_SETTLE`, in ticks. -/
  tSettle : Nat
  /-- `T_ADDR_LATCH`, in ticks. -/
  tAddrLatch : Nat
  /-- `T_DATA_LATCH`, in ticks. -/
  tDataLatch : Nat
  /-- `T_RESET_PARK`, in ticks. -/
  tResetPark : Nat
  /-- `T_TICK`, in a unit of time of the platform's choosing; read by no step (R7, R11). -/
  tTick : Nat
  /-- `CS_ACTIVE`. -/
  csActive : Level
  /-- `IC_ACTIVE`. -/
  icActive : Level
  /-- `IDLE_DRIVE`. -/
  idleDrive : IdleDrive
  /-- `PARK_A0`. -/
  parkA0 : Level
  /-- `PARK_D`. -/
  parkD : Byte
  /-- `NOTE_ON_NIBBLE`. -/
  noteOnNibble : Nibble
  /-- `NOTE_OFF_NIBBLE`. -/
  noteOffNibble : Nibble
  /-- `N`, the voice count; the host's. -/
  nVoices : Nat
  /-- The part of `LAYOUT` that says where the gate is; the host's. -/
  gateReg : GateReg
  /-- `FREQ_TABLE`; the host's. -/
  freqTable : Vector (BitVec 16) 12
  deriving DecidableEq, Repr

/-! ## DEC (R21 to R27) -/

/-- `dec.state` (R21). -/
inductive DecState
  | awaitingStatus | awaitingNote | awaitingVelocity
  deriving DecidableEq, Repr

/-- The two recognised opcodes (R92). -/
inductive Opcode
  | noteOn | noteOff
  deriving DecidableEq, Repr

/-- `NoteEvent` (R97): the source's tagged variant. -/
inductive NoteEvent
  | on (note : Byte) (instrument : Nibble) (velocity : Byte)
  | off (note : Byte) (instrument : Nibble)
  deriving DecidableEq, Repr

/-- `dec.buf` (R22 to R26). `opcode = none` is the spec's `None`. -/
structure MsgBuf where
  opcode : Option Opcode
  instrument : Nibble
  note : Byte
  velocity : Byte
  deriving DecidableEq, Repr

/-- The decoder: `dec.state`, `dec.buf`, `dec.ev`, `dec.ev_valid`. -/
structure Dec where
  state : DecState
  buf : MsgBuf
  ev : NoteEvent
  evValid : Bool
  deriving DecidableEq, Repr

/-! ## BUS and the lines (R28 to R36) -/

/-- `bus.phase` (R28). -/
inductive Phase
  | idle
  | w0 | w1 | w2 | w3 | w4 | w5 | w6 | w7 | w8 | w9 | w10 | w11 | w12 | w13 | w14 | w15 | w16 | w17 | w18
  | x0 | x1 | x2 | x3
  deriving DecidableEq, Repr

/-- The sequencer: `bus.phase`, `bus.addr`, `bus.data`, `bus.t0`. -/
structure Bus where
  phase : Phase
  addr : Byte
  data : Byte
  /-- The tick count sampled on entry to a wait (R30), below `2^TICK_W`. -/
  t0 : Nat
  deriving DecidableEq, Repr

/-- `line.WE` (R32): `l` asserted, `h` deasserted, or `idle`. -/
inductive WeLine
  | l | h | idle
  deriving DecidableEq, Repr

/-- `line.CS` (R34). -/
inductive CsLine
  | asserted | deasserted | idle
  deriving DecidableEq, Repr

/-- `line.IC` (R36). -/
inductive IcLine
  | asserted | deasserted
  deriving DecidableEq, Repr

/-- The output lines, in logical states (R9). -/
structure Lines where
  we : WeLine
  a0 : Level
  cs : CsLine
  d : Byte
  ic : IcLine
  deriving DecidableEq, Repr

/-! ## Ports (R42) -/

/-- The inputs the host drives. `none` is `rx_valid = 0` and `cmd_valid = 0`. -/
structure Ports where
  rx : Option Byte
  cmd : Option CmdWord
  rst : Bool
  deriving DecidableEq, Repr

/-! ## The observer of the lines (R152) -/

/-- The target's registers `chip.reg` (R60, R71): the addresses whose byte differs from what an unlisted one reads as, rising. -/
abbrev Memory := List Host.Cell

/-- An open chip-select window (R152). -/
structure Window where
  /-- Ticks since it opened. -/
  ticks : Nat
  /-- WE, A0 and D had been unchanged for at least `T_SETTLE` ticks when it opened. -/
  settled : Bool
  /-- WE, A0 and D have not changed since it opened. -/
  steady : Bool
  deriving DecidableEq, Repr

/-- The observer: the target's address latch and registers, and what R152 needs to judge a window. It is not state of the block
(R13) and nothing in the block reads it. -/
structure Chip where
  latch : Byte
  reg : Memory
  /-- Which free contents an unlisted address reads as: the draw at which the registers last became any value. -/
  regDraw : Nat
  /-- Ticks since WE, A0 or D last changed. -/
  stable : Nat
  window : Option Window
  /-- The model's own counter of the times that the target's state became any value. -/
  draws : Nat
  deriving DecidableEq, Repr

/-! ## The host (R200 to R216), the block's environment -/

/-- The source that the mode signal selects (R213). -/
inductive Mode
  | serial | matrix
  deriving DecidableEq, Repr

/-- VoiceSlot (R205); `on` is its status. -/
structure VoiceSlot where
  note : Byte
  instrument : Nibble
  on : Bool
  deriving DecidableEq, Repr

/-- An act of the host still to come: a command to run to its end, or a change of the voice table that stands between commands in
R207 to R209. -/
inductive HostAct
  /-- A command to present (R215). -/
  | command (word : CmdWord)
  /-- `table[i] <- note, instrument, On` (R207). -/
  | claim (i : Nat) (note : Byte) (instrument : Nibble)
  /-- `table[i].status <- Off` (R208). -/
  | release (i : Nat)
  /-- The table becomes all `Off` (R209). -/
  | allOff
  deriving DecidableEq, Repr

/-- The host's state. -/
structure Env where
  /-- VoiceTable (R205), `N` slots. -/
  table : List VoiceSlot
  /-- AllocatorCursor (R206), in `[0, N)`. -/
  cursor : Nat
  /-- The mode as last sampled (R213). -/
  mode : Mode
  /-- The external mode signal (R213). -/
  modeSignal : Mode
  /-- The current key bitmap, from the external scanner (R210). -/
  keysNow : List Bool
  /-- The key bitmap of the last scan (R210). -/
  keysPrev : List Bool
  /-- Key events of the last scan still to be handled (R201). -/
  keyEvents : List NoteEvent
  /-- What the host will do next, in order (R201, R207 to R209, R215). -/
  acts : List HostAct
  /-- `chip_reset()` is still to be issued before the next `write` (R272, R215). -/
  owesChipReset : Bool
  /-- Bytes received and not yet handed to DEC, in order (R73, R278). -/
  uart : List Byte
  deriving DecidableEq, Repr

/-! ## Moves (R12, R247): which agent steps next is data -/

/-- A move of an agent. The list of moves to come is the model's way of holding the interleaving that the spec leaves open. -/
inductive Move
  /-- The tick source increments the counter (R250). -/
  | tick
  /-- DEC's turn: it takes the presented byte if it is ready (R170, R186). -/
  | dec
  /-- BUS's turn: a micro-step, or acceptance in `Idle` (R120, R28). -/
  | bus
  /-- BUS's turn at the micro-step that ends the address window, named by the address on the lines (R99, R129). -/
  | address
  /-- The host takes the pending event (`ev_ready = 1`, R186) and handles it (R202). -/
  | takeEvent
  /-- The host hands the next received byte to DEC's port (R215). -/
  | handByte
  /-- The host does the next act of its list: it presents a command, or changes its table (R215, R207 to R209). -/
  | issue
  /-- One iteration of the host's control loop (R201). -/
  | loop
  /-- The host initialises itself and asks for a chip reset (R215, R273). -/
  | hostInit
  /-- The host decides to issue a command (R215: any). -/
  | request (word : CmdWord)
  /-- The UART layer delivers a byte (R73). -/
  | receive (byte : Byte)
  /-- The external mode signal changes (R213). -/
  | setMode (mode : Mode)
  /-- The external scanner produces a bitmap (R210). -/
  | setKeys (keys : List Bool)
  /-- `rst` is asserted (R43, R44). -/
  | rstAssert
  /-- `rst` is released (R44). -/
  | rstRelease
  deriving DecidableEq, Repr

/-! ## The whole state -/

/-- The state of the block (R20) with its parameters, ports, observer, host and the moves to come. -/
structure State where
  params : Params
  dec : Dec
  bus : Bus
  line : Lines
  /-- `tick` (R37), below `2^TICK_W`. -/
  tick : Nat
  port : Ports
  chip : Chip
  env : Env
  moves : List Move
  /-- The model's own counter of the free values drawn at the block's resets. -/
  draws : Nat
  deriving DecidableEq, Repr

/-- Faults: none. "The block has no fault" (R14; R240, R254). Safe: a step that stops where the hardware goes on does not exist. -/
inductive Fault
  deriving DecidableEq, Repr

/-- Refusals. -/
inductive Refusal
  /-- An instruction that has no meaning in this model. Raised by no arm: every row has its meaning. Safe. -/
  | notModelled (mnemonic : String)
  /-- Raised by WRITE and CHIP_RESET executed while a command is in flight: "a model gives a command in a non-idle phase no step (it
  is refused, erring toward unprovable)" (R151; R14, U4). A command that merely waits on the port meets no refusal. Safe. -/
  | commandWhileBusy
  /-- Raised by `memRead`: "the block has no read path" (R64), "A model refuses it" (R10). No instruction calls it. Safe. -/
  | noReadPath
  deriving DecidableEq, Repr

/-! ## Reset (R44) -/

/-- The parameters with R7's values, the OPEN ones free within their constraints (log entry 2). -/
def Params.ofConfig : Params where
  tickW := Config.openTickW + 1
  tSettle := Config.openSettle % 2 ^ (Config.openTickW + 1)
  tAddrLatch := Config.openAddrLatch % 2 ^ (Config.openTickW + 1)
  tDataLatch := Config.openDataLatch % 2 ^ (Config.openTickW + 1)
  tResetPark := Config.openResetPark % 2 ^ (Config.openTickW + 1)
  tTick := Config.openTickPeriod + 1
  csActive := .l
  icActive := .l
  idleDrive := .h
  parkA0 := .l
  parkD := 0x00#8
  noteOnNibble := 0x9#4
  noteOffNibble := 0x8#4
  nVoices := Config.openVoices % 16 + 1
  gateReg := if Config.openGateInFreqRegister then .freq else .octGate
  freqTable := Config.openFreqTable

/-- The unspecified `dec.ev` after the `n`-th reset (R44, U16; log entry 3). -/
def freeEvent (n : Nat) : NoteEvent :=
  if Config.freeEventBit n then .on (Config.freeNote n) (Config.freeNibble n) (Config.freeVelocity n)
  else .off (Config.freeNote n) (Config.freeNibble n)

/-- `dec` after the `n`-th reset (R44). -/
def Dec.atReset (n : Nat) : Dec where
  state := .awaitingStatus
  buf := { opcode := none, instrument := 0#4, note := 0#8, velocity := 0#8 }
  ev := freeEvent n
  evValid := false

/-- `bus` after the `n`-th reset (R44; log entry 3). -/
def Bus.atReset (p : Params) (n : Nat) : Bus where
  phase := .idle
  addr := Config.freeAddr n
  data := Config.freeData n
  t0 := Config.freeT0 n % 2 ^ p.tickW

/-- The lines after the block's reset (R44, R270): parked, the target held in reset. -/
def Lines.atReset (p : Params) : Lines where
  we := .idle
  a0 := p.parkA0
  cs := .idle
  d := p.parkD
  ic := .asserted

/-- `tick` after the `n`-th reset: "unspecified (any value); a model draws it" (R44). -/
def tickAtReset (p : Params) (n : Nat) : Nat := Config.freeTick n % 2 ^ p.tickW

/-- The host before it has done anything (R205, R206, R273): all slots Off, cursor 0, nothing decided, a chip reset owed (R272). -/
def Env.initial (p : Params) : Env where
  table := List.replicate p.nVoices { note := 0#8, instrument := 0#4, on := false }
  cursor := 0
  mode := .serial
  modeSignal := .serial
  keysNow := []
  keysPrev := []
  keyEvents := []
  acts := []
  owesChipReset := true
  uart := []

/-- The machine right after reset (R44, R270), `rst` released; nothing is presented and no move is scheduled. -/
def State.reset : State where
  params := Params.ofConfig
  dec := Dec.atReset 0
  bus := Bus.atReset Params.ofConfig 0
  line := Lines.atReset Params.ofConfig
  tick := tickAtReset Params.ofConfig 0
  port := { rx := none, cmd := none, rst := false }
  chip := { latch := Config.chipByte 0, reg := [], regDraw := 0, stable := 0, window := none, draws := 1 }
  env := Env.initial Params.ofConfig
  moves := []
  draws := 1

end Sys2Proof.Machine
end

