-- ==== Sys2Proof/Machine/Operands.lean ====
section
/-! DEFINITION. Operand forms (R90 to R104): the fields of a byte, of a command word, of an event word, and the words made from
fields; and the tick arithmetic (R141). No operand is sign-extended, shifted or scaled (R104). -/

namespace Sys2Proof.Machine

/-! ## Input bytes -/

/-- Bit 7 alone decides the class of an input byte (R90): set, a status byte. -/
def isStatus (b : Byte) : Bool := b.getLsbD 7

/-- The opcode nibble `b[7:4]` of a status byte (R91). -/
def opcodeNibble (b : Byte) : Nibble := b.extractLsb' 4 4

/-- The instrument `b[3:0]` of a status byte (R91). -/
def instrumentOf (b : Byte) : Nibble := b.extractLsb' 0 4

/-- The status byte with these nibbles. -/
def statusByte (hi lo : Nibble) : Byte := hi ++ lo

/-- The data byte with this value (R94): bit 7 clear. -/
def dataByteOf (d : BitVec 7) : Byte := 0#1 ++ d

/-! ## Commands -/

/-- The command word of `WRITE(a, d)` (R96). -/
def writeWord (a d : Byte) : CmdWord := 0#1 ++ a ++ d

/-- The command word of `CHIP_RESET` (R96), ignored bits as given. -/
def chipResetWord (x : BitVec 16) : CmdWord := 1#1 ++ x

/-! ## Target addresses (R61, R62, R100) -/

/-- A per-voice address, base nibble and voice index: `0x10 + i` is `0001iiii` (R100). -/
def voiceAddress (base i : Nibble) : Byte := base ++ i

/-- The host's per-voice address: base plus slot index, with no further translation (R62). -/
def slotAddress (base i : Nat) : Byte := BitVec.ofNat 8 (base + i)

/-! ## Events (R97) -/

/-- The note of an event. -/
def NoteEvent.note : NoteEvent → Byte
  | .on n _ _ => n
  | .off n _ => n

/-- The instrument of an event. -/
def NoteEvent.instrument : NoteEvent → Nibble
  | .on _ i _ => i
  | .off _ i => i

/-- `ev_velocity`: 0 for an `Off` (R97). -/
def NoteEvent.velocity : NoteEvent → Byte
  | .on _ _ v => v
  | .off _ _ => 0#8

/-- `ev_kind`: 1 for an `On` (R97). -/
def NoteEvent.kind : NoteEvent → BitVec 1
  | .on _ _ _ => 1#1
  | .off _ _ => 0#1

/-- The packed event port `ev_kind ++ ev_instrument ++ ev_note ++ ev_velocity` (R97). -/
def NoteEvent.pack (e : NoteEvent) : BitVec 21 := e.kind ++ e.instrument ++ e.note ++ e.velocity

/-- An event that DEC can emit (R97, R189): data bytes below 0x80, an `On` with a velocity above 0. -/
def NoteEvent.emittable : NoteEvent → Bool
  | .on n _ v => !isStatus n && !isStatus v && v != 0#8
  | .off n _ => !isStatus n

/-- The opcode-table row of an event, where it has one. -/
def NoteEvent.instr? (e : NoteEvent) : Option Instr := decodeEvent e.pack

/-! ## Ticks -/

/-- The modular difference `(later - earlier) mod 2^w` of two counts below `2^w` (R141: unsigned, modular in `TICK_W` bits). -/
def modDiff (w later earlier : Nat) : Nat := (later + 2 ^ w - earlier) % 2 ^ w

/-- `elapsed` of the wait in progress (R141). -/
def elapsed (s : State) : Nat := modDiff s.params.tickW s.tick s.bus.t0

/-- The tick count that guarantees a real-time minimum `d` (R142): `ceil(d / T_TICK) + 1`. -/
def ticksFor (d tTick : Nat) : Nat := (d + tTick - 1) / tTick + 1

end Sys2Proof.Machine
end

