-- ==== Sys2Proof/Machine/Flags.lean ====
section
/-! DEFINITION. The status bits. The block has no condition codes or flags (R38); two derived bits serve the handshakes, and both are
functions of the state. No micro-step and no rule of DEC writes a flag (R121). -/

namespace Sys2Proof.Machine

/-- `busy = (bus.phase != Idle)` (R38, R120). -/
def busy (s : State) : Bool := s.bus.phase != .idle

/-- `cmd_ready = (bus.phase = Idle)` (R120). -/
def cmdReady (s : State) : Bool := s.bus.phase == .idle

/-- `rx_ready = (dec.ev_valid = 0)` (R186): DEC takes no new byte while an event is waiting. -/
def rxReady (s : State) : Bool := !s.dec.evValid

/-- Whether DEC, in state `q`, takes `b` for a `MalformedByte` (R240, R241): a status byte with an unrecognised nibble in any state,
or a data byte in `AwaitingStatus`. A label for claims, neither state nor output (R240). -/
def isMalformed (p : Params) (q : DecState) (b : Byte) : Bool :=
  if isStatus b then opcodeNibble b != p.noteOnNibble && opcodeNibble b != p.noteOffNibble
  else q == .awaitingStatus

end Sys2Proof.Machine
end

