-- ==== Sys2Proof/Machine/Memory.lean ====
section
/-! DEFINITION. The one address space (R60): the target's registers, one byte at each of 256 addresses. An unlisted address holds a
free value ("any value until written", U7; log entry 12). Written only by the observer of R152; the block has no read path (R64). -/

namespace Sys2Proof.Machine

/-- What an unlisted address reads as: the byte of the `n`-th free contents. -/
def unlistedByte (n a : Nat) : Byte := Config.chipReg n a

/-- The byte at an address. -/
def Memory.read (n : Nat) : Memory → Nat → Byte
  | [], a => unlistedByte n a
  | (b, w) :: rest, a => if a = b then w else Memory.read n rest a

/-- The list without an address. -/
def Memory.erase (m : Memory) (a : Nat) : Memory := m.filter (fun c => c.1 != a)

/-- A cell put in its place by address. -/
def Memory.insert : Memory → Nat → Byte → Memory
  | [], a, v => [(a, v)]
  | (b, w) :: rest, a, v => if a < b then (a, v) :: (b, w) :: rest else (b, w) :: Memory.insert rest a v

/-- `chip.reg[a] <- v` (R71), keeping the canonical form: the value an unlisted address reads as is not listed. -/
def Memory.write (n : Nat) (m : Memory) (a : Nat) (v : Byte) : Memory :=
  if v = unlistedByte n a then m.erase a else (m.erase a).insert a v

/-- Every address is at least `lo`, rising strictly, and below 256 (R60: an address is a `u8`). -/
def Memory.risingFrom : Nat → Memory → Bool
  | _, [] => true
  | lo, (a, _) :: rest => decide (lo ≤ a) && decide (a < 256) && Memory.risingFrom (a + 1) rest

/-- The canonical form: rising, and no cell with what an unlisted address reads as. -/
def Memory.wf (n : Nat) (m : Memory) : Bool := Memory.risingFrom 0 m && m.all (fun c => c.2 != unlistedByte n c.1)

/-- The observer's value of `chip.reg[a]`. -/
def chipRead (s : State) (a : Byte) : Byte := s.chip.reg.read s.chip.regDraw a.toNat

/-- `MemRead(addr, n)` is "not available: the block has no read path (R64). A model refuses it" (R10). -/
def memRead (_a : Byte) (_n : Nat) (_s : State) : Host.Outcome State Fault Refusal := .refused .noReadPath

end Sys2Proof.Machine
end

