-- ==== Sys2Proof/Machine/Target.lean ====
section
/-! DEFINITION. The observer of the lines (R152): what a trace of line changes means to the target (R71, R99). It is told of every
change of the lines and of every tick; nothing in the block reads it. -/

namespace Sys2Proof.Machine

/-- "The address latch and every `chip.reg` entry are any value" (R152 after a bad cycle; U7 after a chip reset): a fresh free latch,
and fresh free registers, none of them listed. -/
def Chip.anyValue (c : Chip) : Chip :=
  { c with latch := Config.chipByte c.draws, reg := [], regDraw := c.draws, draws := c.draws + 1 }

/-- The dwell a window needs: `T_ADDR_LATCH` with A0 low, `T_DATA_LATCH` with A0 high (R152). -/
def dwellFor (p : Params) (a0 : Level) : Nat :=
  match a0 with
  | .l => p.tAddrLatch
  | .h => p.tDataLatch

/-- The conditions of R152 for a good cycle, on an open window whose lines are `l`. -/
def goodCycle (p : Params) (w : Window) (l : Lines) : Bool :=
  w.settled && w.steady && l.we == .l && decide (dwellFor p l.a0 ≤ w.ticks)

/-- Chip-select goes away from a window whose lines were `l` (R152): a good address cycle sets the latch, a good data cycle performs
`chip.reg[latch] <- d`, any other is a bad cycle; "while `line.IC` is asserted windows have no effect". That an address outside R61
is written like any other is the model's choice where U6 leaves the target a parameter (log entry 32). -/
def Chip.closeWindow (p : Params) (l : Lines) (c : Chip) : Chip :=
  match c.window with
  | none => c
  | some w =>
    if l.ic = .asserted then { c with window := none }
    else if goodCycle p w l then
      match l.a0 with
      | .l => { c with window := none, latch := l.d }
      | .h => { c with window := none, reg := c.reg.write c.regDraw c.latch.toNat l.d }
    else { c with window := none }.anyValue

/-- WE, A0 or D changes: what was settled is no longer, and an open window is not steady (R152). -/
def Chip.disturb (c : Chip) : Chip :=
  { c with stable := 0, window := c.window.map (fun w => { w with steady := false }) }

/-- Chip-select becomes asserted (R152): a window opens, settled if the other lines have been quiet for `T_SETTLE` ticks. -/
def Chip.openWindow (p : Params) (c : Chip) : Chip :=
  { c with window := some { ticks := 0, settled := decide (p.tSettle ≤ c.stable), steady := true } }

/-- WE, A0 and D are the same. -/
def Lines.sameBus (x y : Lines) : Bool := x.we == y.we && x.a0 == y.a0 && x.d == y.d

/-- The observer is told that the lines go from `x` to `y`. -/
def Chip.observe (p : Params) (x y : Lines) (c : Chip) : Chip :=
  let closed := if x.cs = .asserted ∧ y.cs ≠ .asserted then c.closeWindow p x else c
  let quiet := if x.sameBus y then closed else closed.disturb
  if x.cs ≠ .asserted ∧ y.cs = .asserted then quiet.openWindow p else quiet

/-- The observer is told of a tick. -/
def Chip.tick (c : Chip) : Chip :=
  { c with stable := c.stable + 1, window := c.window.map (fun w => { w with ticks := w.ticks + 1 }) }

end Sys2Proof.Machine
end

