-- ==== Sys2Proof/Machine/Ops.lean ====
section
/-! DEFINITION. The named operations every meaning is written with (R10): driving lines, waiting, the tick, taking a byte, accepting
a command, absorbing a `MalformedByte`, and the block's reset. -/

namespace Sys2Proof.Machine

/-! ## Lines and phases -/

/-- `Drive` (R10): the lines take new logical states, and the observer sees the change. -/
def drive (l : Lines) (s : State) : State :=
  { s with line := l, chip := s.chip.observe s.params s.line l }

/-- `bus.phase <- p` (R10). -/
def toPhase (p : Phase) (s : State) : State := { s with bus := { s.bus with phase := p } }

/-- `bus.t0 <- tick; bus.phase <- p`: entry to a wait phase (R30). -/
def enterWait (p : Phase) (s : State) : State := { s with bus := { s.bus with t0 := s.tick, phase := p } }

/-- `Wait(n)` (R141): the step to the next phase is enabled once at least `n` ticks have elapsed; until then BUS holds, and its turn
changes nothing (log entry 11). R141 offers a model two ways to deal with a BUS that is starved for `2^TICK_W - n` ticks: `tick` is
modular here, so a claim that a wait ends assumes that BUS is not starved (`Polled`, `BusNotStarved`; log entry 31). Only ticks let a
wait end: where none come it holds for ever, and over an endless run its end rests on a fair tick source (R277: `TickFair`; log
entry 25). -/
def waitTicks (n : Nat) (p : Phase) (s : State) : State :=
  if n ≤ elapsed s then toPhase p s else s

/-- The successor of a phase (R28); `Idle` has none of its own. -/
def Phase.succ : Phase → Phase
  | .idle => .idle
  | .w0 => .w1 | .w1 => .w2 | .w2 => .w3 | .w3 => .w4 | .w4 => .w5 | .w5 => .w6 | .w6 => .w7 | .w7 => .w8 | .w8 => .w9
  | .w9 => .w10 | .w10 => .w11 | .w11 => .w12 | .w12 => .w13 | .w13 => .w14 | .w14 => .w15 | .w15 => .w16 | .w16 => .w17
  | .w17 => .w18 | .w18 => .idle
  | .x0 => .x1 | .x1 => .x2 | .x2 => .x3 | .x3 => .idle

/-- The wait of a phase, if it is a wait phase (R141). -/
def Phase.wait? (p : Params) : Phase → Option Nat
  | .w2 | .w4 | .w10 | .w13 => some p.tSettle
  | .w6 => some p.tAddrLatch
  | .w15 => some p.tDataLatch
  | .x2 => some p.tResetPark
  | _ => none

/-- The lines with the bus parked (R147, R270); `line.IC` as it is. -/
def Lines.park (p : Params) (l : Lines) : Lines :=
  { l with we := .idle, cs := .idle, a0 := p.parkA0, d := p.parkD }

/-- Chip-select is deasserted after the address, at the end of the address window (R129). -/
def deselectAddress (s : State) : State := toPhase .w8 (drive { s.line with cs := .deasserted } s)

/-! ## The tick source -/

/-- `tick <- (tick + 1) mod 2^TICK_W` (R250); the observer counts ticks too. -/
def tickSource (s : State) : State :=
  { s with tick := (s.tick + 1) % 2 ^ s.params.tickW, chip := s.chip.tick }

/-! ## Commands -/

/-- `accept` (R120): the operands of a WRITE are captured (R29), a CHIP_RESET leaves them as they are; no line changes; the word
leaves the port (R280). -/
def acceptCommand (w : CmdWord) (s : State) : State :=
  if w.getLsbD 16 then { s with bus := { s.bus with phase := .x0 }, port := { s.port with cmd := none } }
  else { s with
    bus := { s.bus with phase := .w0, addr := w.extractLsb' 8 8, data := w.extractLsb' 0 8 }
    port := { s.port with cmd := none } }

/-- A command executed: accepted in `Idle` (R120), refused while one is in flight (R14, R151). -/
def runCommand (w : CmdWord) (s : State) : Host.Outcome State Fault Refusal :=
  if cmdReady s then .next (acceptCommand w s) else .refused .commandWhileBusy

/-! ## The decoder's step (R184) -/

/-- What one decoder step gives: the next state and buffer, and at most one event (R170). -/
structure DecOut where
  state : DecState
  buf : MsgBuf
  ev : Option NoteEvent
  deriving DecidableEq, Repr

/-- TAKING THE BLOCK'S ONE EXCEPTION: `raise MalformedByte` (R10, R241). `dec.state <- AwaitingStatus`, nothing is emitted, nothing
is saved, no handler runs; there is no return, since the next byte is decoded by the ordinary rules (R241, R248). -/
def raiseMalformedByte (buf : MsgBuf) : DecOut := { state := .awaitingStatus, buf := buf, ev := none }

/-- A recognised status byte starts a message (R173, R174); `buf` is already reset (R172). -/
def startMessage (op : Opcode) (b : Byte) (buf : MsgBuf) : DecOut :=
  { state := .awaitingNote, buf := { buf with opcode := some op, instrument := instrumentOf b }, ev := none }

/-- The event of a velocity byte (R178 to R180): `On` for note-on with a velocity above 0, `Off` otherwise. -/
def eventOf (buf : MsgBuf) (b : Byte) : NoteEvent :=
  if buf.opcode = some .noteOn ∧ b ≠ 0#8 then .on buf.note buf.instrument b else .off buf.note buf.instrument

/-- A status byte, in any state (R171 to R175): the buffer is reset, then the opcode nibble decides. -/
def decStatus (p : Params) (buf : MsgBuf) (b : Byte) : DecOut :=
  let cleared := { buf with note := 0#8, velocity := 0#8 }
  if opcodeNibble b = p.noteOnNibble then startMessage .noteOn b cleared
  else if opcodeNibble b = p.noteOffNibble then startMessage .noteOff b cleared
  else raiseMalformedByte { cleared with opcode := none, instrument := 0#4 }

/-- A data byte, by the decoder's state (R176 to R180). -/
def decData (q : DecState) (buf : MsgBuf) (b : Byte) : DecOut :=
  match q with
  | .awaitingStatus => raiseMalformedByte buf
  | .awaitingNote => { state := .awaitingVelocity, buf := { buf with note := b }, ev := none }
  | .awaitingVelocity => { state := .awaitingNote, buf := { buf with velocity := b }, ev := some (eventOf buf b) }

/-- `DecStep` (R184), the pure function of state, buffer and byte (R27). -/
def decStep (p : Params) (q : DecState) (buf : MsgBuf) (b : Byte) : DecOut :=
  if isStatus b then decStatus p buf b else decData q buf b

/-- `Emit` (R10, R186): an event is placed in `dec.ev` and `dec.ev_valid <- 1`; without one the register is left alone. -/
def emit (e : Option NoteEvent) (d : Dec) : Dec :=
  match e with
  | none => d
  | some e => { d with ev := e, evValid := true }

/-- DEC takes the byte `b` as from state `q` (R170, R186): only while no event is waiting; the byte leaves the port. -/
def takeByteFrom (q : DecState) (b : Byte) (s : State) : State :=
  if rxReady s then
    let out := decStep s.params q s.dec.buf b
    { s with
      dec := emit out.ev { s.dec with state := out.state, buf := out.buf }
      port := { s.port with rx := none } }
  else s

/-- DEC takes the byte `b`. -/
def takeByte (b : Byte) (s : State) : State := takeByteFrom s.dec.state b s

/-- DEC's step entered from state `q`: the byte on the port, if there is one; between bytes DEC does nothing (R170). -/
def decTurnFrom (q : DecState) (s : State) : State :=
  match s.port.rx with
  | none => s
  | some b => takeByteFrom q b s

/-! ## The target in reset, and the block's reset -/

/-- The target's state when its reset line is driven by CHIP_RESET: any value until written (R146, U7; log entry 14). -/
def chipForgets (s : State) : State := { s with chip := s.chip.anyValue }

/-- What the block's reset does to the observer (R271): a chip-select window that is cut short is a bad cycle; otherwise the target
keeps its latch and the interrupted write does not happen. The lines change to the parked levels. -/
def Chip.cutByReset (x y : Lines) (c : Chip) : Chip :=
  let cut := if x.cs = .asserted then { c.anyValue with window := none } else c
  if x.sameBus y then cut else cut.disturb

/-- The block's reset, `rst` asserted (R44, R270, R271): every element at its reset value, at once and without any wait; what R44
leaves unspecified is drawn anew (log entry 3). The host's side of the ports and the host keep their state. -/
def blockReset (s : State) : State :=
  { s with
    dec := Dec.atReset s.draws
    bus := Bus.atReset s.params s.draws
    line := Lines.atReset s.params
    tick := tickAtReset s.params s.draws
    chip := s.chip.cutByReset s.line (Lines.atReset s.params)
    draws := s.draws + 1 }

end Sys2Proof.Machine
end

