-- ==== Sys2Proof/Machine/Midi.lean ====
section
/-! DEFINITION. The input bytes and the decoder states (41_midi_decoder.md). Every input-byte row is a byte that DEC takes; `DecStep`
(R184) compares the byte's nibble with the parameters `NOTE_ON_NIBBLE` and `NOTE_OFF_NIBBLE` (R92), so a row's effect follows the
parameters, and the row's name says what the default parameters make of it. A byte presented while an event is waiting is not taken
(R186). -/

namespace Sys2Proof.Machine

/-- NOTE_OFF_STATUS (R174): the byte `1000iiii`. -/
def execNoteOffStatus (instrument : Nibble) (s : State) : Host.Outcome State Fault Refusal :=
  .next (takeByte (statusByte 0x8#4 instrument) s)

/-- NOTE_ON_STATUS (R173): the byte `1001iiii`. -/
def execNoteOnStatus (instrument : Nibble) (s : State) : Host.Outcome State Fault Refusal :=
  .next (takeByte (statusByte 0x9#4 instrument) s)

/-- UNRECOGNISED_STATUS_A (R175): the byte `1010xxxx`. -/
def execUnrecognisedStatusA (ignored : Nibble) (s : State) : Host.Outcome State Fault Refusal :=
  .next (takeByte (statusByte 0xA#4 ignored) s)

/-- UNRECOGNISED_STATUS_B (R175): the byte `1011xxxx`. -/
def execUnrecognisedStatusB (ignored : Nibble) (s : State) : Host.Outcome State Fault Refusal :=
  .next (takeByte (statusByte 0xB#4 ignored) s)

/-- UNRECOGNISED_STATUS_C (R175): the byte `1100xxxx`. -/
def execUnrecognisedStatusC (ignored : Nibble) (s : State) : Host.Outcome State Fault Refusal :=
  .next (takeByte (statusByte 0xC#4 ignored) s)

/-- UNRECOGNISED_STATUS_D (R175): the byte `1101xxxx`. -/
def execUnrecognisedStatusD (ignored : Nibble) (s : State) : Host.Outcome State Fault Refusal :=
  .next (takeByte (statusByte 0xD#4 ignored) s)

/-- UNRECOGNISED_STATUS_E (R175): the byte `1110xxxx`. -/
def execUnrecognisedStatusE (ignored : Nibble) (s : State) : Host.Outcome State Fault Refusal :=
  .next (takeByte (statusByte 0xE#4 ignored) s)

/-- UNRECOGNISED_STATUS_F (R175): the byte `1111xxxx`. -/
def execUnrecognisedStatusF (ignored : Nibble) (s : State) : Host.Outcome State Fault Refusal :=
  .next (takeByte (statusByte 0xF#4 ignored) s)

/-- DATA_BYTE (R176 to R180): the byte `0ddddddd`, a note, a velocity, or ignored according to `dec.state`. -/
def execDataByte (value : BitVec 7) (s : State) : Host.Outcome State Fault Refusal :=
  .next (takeByte (dataByteOf value) s)

/-- STATE_AwaitingStatus (R21): DEC's step entered from this state, on the byte the port presents (a data byte: R176). -/
def execStateAwaitingStatus (s : State) : Host.Outcome State Fault Refusal :=
  .next (decTurnFrom .awaitingStatus s)

/-- STATE_AwaitingNote (R21): DEC's step entered from this state (a data byte: R177). -/
def execStateAwaitingNote (s : State) : Host.Outcome State Fault Refusal :=
  .next (decTurnFrom .awaitingNote s)

/-- STATE_AwaitingVelocity (R21): DEC's step entered from this state (a data byte: R178 to R180). -/
def execStateAwaitingVelocity (s : State) : Host.Outcome State Fault Refusal :=
  .next (decTurnFrom .awaitingVelocity s)

end Sys2Proof.Machine
end

