-- ==== Sys2Proof/Machine/Allocator.lean ====
section
/-! DEFINITION. The host's note mapper, voice allocator and key scanner (R200 to R212): environment of the block, transcribed so that
the block can be driven end to end (R200). The host's decisions reach the block only as command words. -/

namespace Sys2Proof.Machine

/-! ## NoteMapper (R203, R204) -/

/-- `note % 12`, the semitone (R203). -/
def semitone (note : Byte) : Fin 12 := ⟨note.toNat % 12, Nat.mod_lt _ (by decide)⟩

/-- `frequencyCode(note)` (R203): a lookup in the twelve-entry table. -/
def frequencyCode (p : Params) (note : Byte) : BitVec 16 := p.freqTable[semitone note]

/-- `octave(note)` (R204): `note / 12`, clamped to 7. -/
def octave (note : Byte) : Nat := min (note.toNat / 12) 7

/-! ## VoiceAllocator (R205 to R209) -/

/-- What an allocator call answers (R207, R208, R240). The control loop drops it (R202, R214). -/
inductive AllocResult
  | slot (i : Nat)
  | ok
  | exhausted
  | notFound
  deriving DecidableEq, Repr

/-- Slot `i` exists and its status is `Off`. -/
def slotOff (table : List VoiceSlot) (i : Nat) : Bool :=
  match table[i]? with
  | some v => !v.on
  | none => false

/-- Slot `v` sounds exactly this note and instrument (R208). -/
def VoiceSlot.sounds (note : Byte) (instrument : Nibble) (v : VoiceSlot) : Bool :=
  v.on && v.note == note && v.instrument == instrument

/-- The first `Off` slot of at most `n`, starting at the cursor and wrapping (R207). -/
def findOff (table : List VoiceSlot) (n cursor : Nat) : Option Nat :=
  ((List.range n).map (fun k => (cursor + k) % n)).find? (slotOff table)

/-- The address of the register holding voice `i`'s gate bit (R208, C4). -/
def gateAddr (p : Params) (i : Nat) : Byte :=
  match p.gateReg with
  | .freq => slotAddress 0x10 i
  | .octGate => slotAddress 0x20 i

/-- What a `noteOn` that claims slot `i` does, in order (R207, R212): it writes instrument and volume, claims the slot, writes pitch,
then octave and gate. -/
def noteOnActs (p : Params) (i : Nat) (note : Byte) (instrument : Nibble) (velocity : Byte) : List HostAct :=
  let code := frequencyCode p note
  let oct := BitVec.ofNat 3 (octave note)
  [.command (writeWord (slotAddress 0x30 i) (Config.instVol instrument velocity)),
   .claim i note instrument,
   .command (writeWord (slotAddress 0x10 i) (Config.freqReg note code oct)),
   .command (writeWord (slotAddress 0x20 i) (Config.octGateReg note code oct true))]

/-- The write that releases slot `i` (R208, R212). -/
def gateOffWrite (p : Params) (i : Nat) (v : VoiceSlot) : HostAct :=
  .command (writeWord (gateAddr p i) (Config.gateOffReg v.note v.instrument v.on))

/-- `noteOn` (R207): the cursor always advances by exactly one; no slot is ever taken from a sounding note (C7). -/
def noteOn (p : Params) (note : Byte) (instrument : Nibble) (velocity : Byte) (e : Env) : Env × AllocResult :=
  let advanced := { e with cursor := (e.cursor + 1) % p.nVoices }
  match findOff e.table p.nVoices e.cursor with
  | none => (advanced, .exhausted)
  | some i => ({ advanced with acts := e.acts ++ noteOnActs p i note instrument velocity }, .slot i)

/-- `noteOff` (R208): the first slot, from 0 upward, that sounds exactly this note and instrument; the gate-off write comes first, then
the status is cleared. -/
def noteOff (p : Params) (note : Byte) (instrument : Nibble) (e : Env) : Env × AllocResult :=
  match e.table.findIdx? (VoiceSlot.sounds note instrument) with
  | none => (e, .notFound)
  | some i =>
    match e.table[i]? with
    | none => (e, .notFound)
    | some v => ({ e with acts := e.acts ++ [gateOffWrite p i v, .release i] }, .ok)

/-- `killAll` (R209): a gate-off write to every slot in index order, also to slots already `Off`, and the table all `Off`. The
byte of each write (log entry 16), and that a slot keeps its note and instrument (log entry 15), are the model's choice. -/
def killAll (p : Params) (e : Env) : Env :=
  { e with acts := e.acts ++ e.table.zipIdx.map (fun vi => gateOffWrite p vi.2 vi.1) ++ [.allOff] }

/-- What an act makes of the voice table; a command leaves it as it is. -/
def HostAct.onTable (a : HostAct) (table : List VoiceSlot) : List VoiceSlot :=
  match a with
  | .command _ => table
  | .claim i note instrument => table.set i { note := note, instrument := instrument, on := true }
  | .release i => table.modify i (fun v => { v with on := false })
  | .allOff => table.map (fun v => { v with on := false })

/-- An event reaches the allocator (R202); `Exhausted` and `NotFound` are dropped (R214). -/
def allocate (p : Params) (ev : NoteEvent) (e : Env) : Env :=
  match ev with
  | .on note instrument velocity => (noteOn p note instrument velocity e).1
  | .off note instrument => (noteOff p note instrument e).1

/-- The host has finished what it was doing: nothing left to do, no command presented or in flight (R201). -/
def hostFree (s : State) : Bool := s.env.acts.isEmpty && s.port.cmd.isNone && cmdReady s

/-- The host takes an event from the port: `dec.ev_valid <- 0` (R186), and the allocator handles it (R202). -/
def hostTake (ev : NoteEvent) (s : State) : State :=
  { s with dec := { s.dec with evValid := false }, env := allocate s.params ev s.env }

/-- The host takes an event when it has finished the one before, writes included (R201); until then the event waits (R186). -/
def takeWhenFree (ev : NoteEvent) (s : State) : State := if hostFree s then hostTake ev s else s

/-! ## KeyEventSource (R210) -/

/-- The event of key `k` (N17: what the key stands for is free). -/
def keyEvent (k : Nat) (pressed : Bool) : NoteEvent :=
  if pressed then .on (Config.keyNote k) (Config.keyInstrument k) (Config.keyVelocity k)
  else .off (Config.keyNote k) (Config.keyInstrument k)

/-- The pure diff of two bitmaps (R210): one event for each key index whose state changed; a key the earlier bitmap does not list was
up (log entry 17). They stand in ascending key index, the model's choice where R210 gives no order (log entry 34). -/
def keyDiff (now prev : List Bool) : List NoteEvent :=
  now.zipIdx.filterMap (fun bk => if bk.1 != prev.getD bk.2 false then some (keyEvent bk.2 bk.1) else none)

end Sys2Proof.Machine
end

