-- ==== Sys2Proof/Machine/Outside.lean ====
section
/-! DEFINITION. The target addresses (R61, R100), told apart by the target alone, and the events (R97), taken by the host. BUS decodes
neither (R63). -/

namespace Sys2Proof.Machine

/-- The end of the address window that carries the address `a` (R99, R129): BUS takes chip-select away and the target, which takes no
step (R12), holds the latched address (R152). With another address on the lines, or in another phase, the row is not being latched
and nothing happens (log entry 7). -/
def latchRow (a : Byte) (s : State) : State :=
  if s.bus.phase = .w7 ∧ s.line.d = a then deselectAddress s else s

/-- REG_RHYTHM_DISABLE (R61, R99): the target latches the address `0x0E`. -/
def execRegRhythmDisable (s : State) : Host.Outcome State Fault Refusal :=
  .next (latchRow 0x0E#8 s)

/-- REG_FREQ_LOW (R61, R99): the target latches the address `0x10 + i`. -/
def execRegFreqLow (voice : Nibble) (s : State) : Host.Outcome State Fault Refusal :=
  .next (latchRow (voiceAddress 0x1#4 voice) s)

/-- REG_OCT_GATE (R61, R99): the target latches the address `0x20 + i`. -/
def execRegOctGate (voice : Nibble) (s : State) : Host.Outcome State Fault Refusal :=
  .next (latchRow (voiceAddress 0x2#4 voice) s)

/-- REG_INST_VOL (R61, R99): the target latches the address `0x30 + i`. -/
def execRegInstVol (voice : Nibble) (s : State) : Host.Outcome State Fault Refusal :=
  .next (latchRow (voiceAddress 0x3#4 voice) s)

/-- EVENT_OFF (R97, R186, R202): the host takes the event and calls `noteOff`. -/
def execEventOff (instrument : Nibble) (note : BitVec 7) (s : State) : Host.Outcome State Fault Refusal :=
  .next (takeWhenFree (.off (dataByteOf note) instrument) s)

/-- EVENT_ON (R97, R186, R202): the host takes the event and calls `noteOn`. -/
def execEventOn (instrument : Nibble) (note velocity : BitVec 7) (s : State) : Host.Outcome State Fault Refusal :=
  .next (takeWhenFree (.on (dataByteOf note) instrument (dataByteOf velocity)) s)

end Sys2Proof.Machine
end

