-- ==== Sys2Proof/Machine/Sequencer.lean ====
section
/-! DEFINITION. The bus commands and the sequencer's phases (40_bus_write.md). A phase's meaning is its micro-step; BUS runs it when
`bus.phase` is that phase (R28), which is `fetch`'s part. -/

namespace Sys2Proof.Machine

/-! ## Commands (R120, R121, R146) -/

/-- WRITE (R121): accepted in `Idle`, its 19 micro-steps follow as BUS's turns. -/
def execWrite (address data : Byte) (s : State) : Host.Outcome State Fault Refusal :=
  runCommand (writeWord address data) s

/-- CHIP_RESET (R146): accepted in `Idle`, its 4 micro-steps follow as BUS's turns. -/
def execChipReset (ignored : BitVec 16) (s : State) : Host.Outcome State Fault Refusal :=
  runCommand (chipResetWord ignored) s

/-- PHASE_IDLE (R120): no micro-step; a presented command is accepted. -/
def execPhaseIdle (s : State) : Host.Outcome State Fault Refusal :=
  match s.port.cmd with
  | none => .next s
  | some w => .next (if cmdReady s then acceptCommand w s else s)

/-! ## The micro-steps of WRITE (R122 to R140) -/

/-- W0 (R122): assert write-enable. -/
def execW0 (s : State) : Host.Outcome State Fault Refusal :=
  .next (toPhase .w1 (drive { s.line with we := .l } s))

/-- W1 (R123): select address mode. -/
def execW1 (s : State) : Host.Outcome State Fault Refusal :=
  .next (enterWait .w2 (drive { s.line with a0 := .l } s))

/-- W2 (R124): first settle delay. -/
def execW2 (s : State) : Host.Outcome State Fault Refusal :=
  .next (waitTicks s.params.tSettle .w3 s)

/-- W3 (R125): present the address. -/
def execW3 (s : State) : Host.Outcome State Fault Refusal :=
  .next (enterWait .w4 (drive { s.line with d := s.bus.addr } s))

/-- W4 (R126): second settle delay. -/
def execW4 (s : State) : Host.Outcome State Fault Refusal :=
  .next (waitTicks s.params.tSettle .w5 s)

/-- W5 (R127): assert chip-select for the address. -/
def execW5 (s : State) : Host.Outcome State Fault Refusal :=
  .next (enterWait .w6 (drive { s.line with cs := .asserted } s))

/-- W6 (R128): address-latch dwell. -/
def execW6 (s : State) : Host.Outcome State Fault Refusal :=
  .next (waitTicks s.params.tAddrLatch .w7 s)

/-- W7 (R129): deassert chip-select after the address. -/
def execW7 (s : State) : Host.Outcome State Fault Refusal :=
  .next (deselectAddress s)

/-- W8 (R130): select data mode. -/
def execW8 (s : State) : Host.Outcome State Fault Refusal :=
  .next (toPhase .w9 (drive { s.line with a0 := .h } s))

/-- W9 (R131): deassert write-enable. -/
def execW9 (s : State) : Host.Outcome State Fault Refusal :=
  .next (enterWait .w10 (drive { s.line with we := .h } s))

/-- W10 (R132): third settle delay. -/
def execW10 (s : State) : Host.Outcome State Fault Refusal :=
  .next (waitTicks s.params.tSettle .w11 s)

/-- W11 (R133): present the data. -/
def execW11 (s : State) : Host.Outcome State Fault Refusal :=
  .next (toPhase .w12 (drive { s.line with d := s.bus.data } s))

/-- W12 (R134): assert write-enable for the data. -/
def execW12 (s : State) : Host.Outcome State Fault Refusal :=
  .next (enterWait .w13 (drive { s.line with we := .l } s))

/-- W13 (R135): fourth settle delay. -/
def execW13 (s : State) : Host.Outcome State Fault Refusal :=
  .next (waitTicks s.params.tSettle .w14 s)

/-- W14 (R136): assert chip-select for the data. -/
def execW14 (s : State) : Host.Outcome State Fault Refusal :=
  .next (enterWait .w15 (drive { s.line with cs := .asserted } s))

/-- W15 (R137): data-latch dwell. -/
def execW15 (s : State) : Host.Outcome State Fault Refusal :=
  .next (waitTicks s.params.tDataLatch .w16 s)

/-- W16 (R138): deassert chip-select after the data: the write has taken effect. -/
def execW16 (s : State) : Host.Outcome State Fault Refusal :=
  .next (toPhase .w17 (drive { s.line with cs := .deasserted } s))

/-- W17 (R139): release write-enable. -/
def execW17 (s : State) : Host.Outcome State Fault Refusal :=
  .next (toPhase .w18 (drive { s.line with we := .idle } s))

/-- W18 (R140): release chip-select and finish. -/
def execW18 (s : State) : Host.Outcome State Fault Refusal :=
  .next (toPhase .idle (drive { s.line with cs := .idle } s))

/-! ## The micro-steps of CHIP_RESET (R146 to R149) -/

/-- X0 (R146): assert the chip's reset. -/
def execX0 (s : State) : Host.Outcome State Fault Refusal :=
  .next (toPhase .x1 (chipForgets (drive { s.line with ic := .asserted } s)))

/-- X1 (R147): park the bus; all four drives belong to the one micro-step. -/
def execX1 (s : State) : Host.Outcome State Fault Refusal :=
  .next (enterWait .x2 (drive (s.line.park s.params) s))

/-- X2 (R148): park dwell. -/
def execX2 (s : State) : Host.Outcome State Fault Refusal :=
  .next (waitTicks s.params.tResetPark .x3 s)

/-- X3 (R149): release the chip's reset and finish. -/
def execX3 (s : State) : Host.Outcome State Fault Refusal :=
  .next (toPhase .idle (chipForgets (drive { s.line with ic := .deasserted } s)))

end Sys2Proof.Machine
end

