-- ==== Sys2Proof/Machine/Dispatch.lean ====
section
/-! DEFINITION. One arm for each row of the opcode table: the meaning of every instruction. -/

namespace Sys2Proof.Machine

-- The meaning of an instruction in a state.
def exec (i : Instr) (s : State) : Host.Outcome State Fault Refusal :=
  match i with
  | .noteOffStatus x => Sys2Proof.Machine.execNoteOffStatus x s
  | .noteOnStatus x => Sys2Proof.Machine.execNoteOnStatus x s
  | .unrecognisedStatusA x => Sys2Proof.Machine.execUnrecognisedStatusA x s
  | .unrecognisedStatusB x => Sys2Proof.Machine.execUnrecognisedStatusB x s
  | .unrecognisedStatusC x => Sys2Proof.Machine.execUnrecognisedStatusC x s
  | .unrecognisedStatusD x => Sys2Proof.Machine.execUnrecognisedStatusD x s
  | .unrecognisedStatusE x => Sys2Proof.Machine.execUnrecognisedStatusE x s
  | .unrecognisedStatusF x => Sys2Proof.Machine.execUnrecognisedStatusF x s
  | .dataByte d => Sys2Proof.Machine.execDataByte d s
  | .write a d => Sys2Proof.Machine.execWrite a d s
  | .chipReset x => Sys2Proof.Machine.execChipReset x s
  | .phaseIdle => Sys2Proof.Machine.execPhaseIdle s
  | .w0 => Sys2Proof.Machine.execW0 s
  | .w1 => Sys2Proof.Machine.execW1 s
  | .w2 => Sys2Proof.Machine.execW2 s
  | .w3 => Sys2Proof.Machine.execW3 s
  | .w4 => Sys2Proof.Machine.execW4 s
  | .w5 => Sys2Proof.Machine.execW5 s
  | .w6 => Sys2Proof.Machine.execW6 s
  | .w7 => Sys2Proof.Machine.execW7 s
  | .w8 => Sys2Proof.Machine.execW8 s
  | .w9 => Sys2Proof.Machine.execW9 s
  | .w10 => Sys2Proof.Machine.execW10 s
  | .w11 => Sys2Proof.Machine.execW11 s
  | .w12 => Sys2Proof.Machine.execW12 s
  | .w13 => Sys2Proof.Machine.execW13 s
  | .w14 => Sys2Proof.Machine.execW14 s
  | .w15 => Sys2Proof.Machine.execW15 s
  | .w16 => Sys2Proof.Machine.execW16 s
  | .w17 => Sys2Proof.Machine.execW17 s
  | .w18 => Sys2Proof.Machine.execW18 s
  | .x0 => Sys2Proof.Machine.execX0 s
  | .x1 => Sys2Proof.Machine.execX1 s
  | .x2 => Sys2Proof.Machine.execX2 s
  | .x3 => Sys2Proof.Machine.execX3 s
  | .stateAwaitingStatus => Sys2Proof.Machine.execStateAwaitingStatus s
  | .stateAwaitingNote => Sys2Proof.Machine.execStateAwaitingNote s
  | .stateAwaitingVelocity => Sys2Proof.Machine.execStateAwaitingVelocity s
  | .regRhythmDisable => Sys2Proof.Machine.execRegRhythmDisable s
  | .regFreqLow x => Sys2Proof.Machine.execRegFreqLow x s
  | .regOctGate x => Sys2Proof.Machine.execRegOctGate x s
  | .regInstVol x => Sys2Proof.Machine.execRegInstVol x s
  | .eventOff x n => Sys2Proof.Machine.execEventOff x n s
  | .eventOn x n v => Sys2Proof.Machine.execEventOn x n v s

end Sys2Proof.Machine
end

