-- ==== Sys2Proof/Machine/Environment.lean ====
section
/-! DEFINITION. The moves that run no instruction: the tick source, the host's acts on the ports, the control loop (R201), `rst`
(R43). What a move does when it cannot act is nothing. -/

namespace Sys2Proof.Machine

/-! ## The host's acts on the ports (R215) -/

/-- The host hands the next received byte to DEC's port (R73: in order, each once): the port is free, the event before has been taken
(R215), and the serial source is the active one (R213). -/
def handByte (s : State) : State :=
  match s.port.rx, s.env.uart with
  | none, b :: rest =>
    if s.env.mode = .serial ∧ rxReady s then
      { s with port := { s.port with rx := some b }, env := { s.env with uart := rest } }
    else s
  | _, _ => s

/-- The host presents a command, which it holds until it is accepted (R215); `acts` are what it will do next. -/
def present (w : CmdWord) (acts : List HostAct) (s : State) : State :=
  { s with port := { s.port with cmd := some w }, env := { s.env with acts := acts, owesChipReset := false } }

/-- The host does the next act of its list, when its command port is free. Before the first WRITE after the block's reset it presents
`chip_reset()` (R272). Its table changes only between commands, when the one before is complete (R201, R207, R208). -/
def doNextAct (s : State) : State :=
  match s.port.cmd, s.env.acts with
  | none, .command w :: rest =>
    if s.env.owesChipReset ∧ w.getLsbD 16 = false then present (chipResetWord 0#16) s.env.acts s else present w rest s
  | none, a :: rest =>
    if busy s then s else { s with env := { s.env with table := a.onTable s.env.table, acts := rest } }
  | some _, _ => s
  | none, [] => s

/-- The host's next act; none while it asserts `rst`, after which it starts over (R215). -/
def nextAct (s : State) : State := if s.port.rst then s else doNextAct s

/-- The host takes the pending event, if there is one and the host is free (R186, R201). -/
def takePending (s : State) : State :=
  if s.dec.evValid then takeWhenFree s.dec.ev s else s

/-- The host's own initialisation (R215, R273): its table all `Off`, cursor 0 (R206), and `chip_reset()` to run before any write
(R272). What the host had still to do and a command presented but not accepted, which there can be only at the release of `rst`, are
dropped, the model's choice; the signals from outside stay as they are (log entry 15). No global register is written: whether,
when and with what value 0x0E is written is N10, and left to the move `request` (log entry 35). -/
def hostInit (s : State) : State :=
  { s with
    port := { s.port with cmd := none }
    env := { s.env with
      table := List.replicate s.params.nVoices { note := 0#8, instrument := 0#4, on := false }
      cursor := 0
      keyEvents := []
      acts := [.command (chipResetWord 0#16)]
      owesChipReset := true } }

/-- The host's initialisation at its startup (R273), before it has issued or decided on anything: no command is presented then, so the
host holds every command until it is accepted (R215). -/
def hostStart (s : State) : State :=
  if s.env.owesChipReset ∧ hostFree s ∧ s.env.keyEvents = [] then hostInit s else s

/-- `rst` is released (R44); the host, which asserted it, initialises itself again (R215). -/
def rstRelease (s : State) : State :=
  if s.port.rst then hostInit { s with port := { s.port with rst := false } } else s

/-! ## The control loop (R201, R213) -/

/-- What one iteration of the control loop does. -/
inductive LoopAct
  /-- The writes of the last event are not complete, or the byte handed over is not decoded, or `rst` is asserted: the loop waits. -/
  | hold
  /-- The next act of the event being handled is done: a command is presented, or the table changes. -/
  | issue
  /-- A key event of the last scan is handled. -/
  | keyEvent
  /-- The event DEC has emitted is handled. -/
  | takeEvent
  /-- The mode signal has changed: `killAll` runs, then the source is switched (R213). -/
  | switchMode
  /-- The active source is polled. -/
  | poll
  deriving DecidableEq, Repr

/-- The loop runs an event "fully to completion (including all RegisterBus writes) before polling again" (R201). -/
def loopAct (s : State) : LoopAct :=
  if s.port.rst || s.port.cmd.isSome || busy s then .hold
  else if !s.env.acts.isEmpty then .issue
  else if !s.env.keyEvents.isEmpty then .keyEvent
  else if s.dec.evValid then .takeEvent
  else if s.port.rx.isSome then .hold
  else if s.env.mode ≠ s.env.modeSignal then .switchMode
  else .poll

/-- The next key event goes to the allocator; it never passes through DEC (R210). -/
def handleKeyEvent (s : State) : State :=
  match s.env.keyEvents with
  | [] => s
  | e :: rest => { s with env := allocate s.params e { s.env with keyEvents := rest } }

/-- A mode transition: `killAll()` is what the host does next, before the new source's events (R213); DEC keeps its state (D23). -/
def switchMode (s : State) : State :=
  { s with env := { killAll s.params s.env with mode := s.env.modeSignal } }

/-- The active source is polled (R201): a received byte is handed over, or the key bitmap is compared with the last one (R210).
That the last one is kept over a mode switch is the model's choice (log entry 33). -/
def pollSource (s : State) : State :=
  match s.env.mode with
  | .serial => handByte s
  | .matrix =>
    { s with env := { s.env with
        keyEvents := keyDiff s.env.keysNow s.env.keysPrev
        keysPrev := s.env.keysNow } }

/-- One iteration of the control loop. -/
def loopTurn (s : State) : State :=
  match loopAct s with
  | .hold => s
  | .issue => nextAct s
  | .keyEvent => handleKeyEvent s
  | .takeEvent => takePending s
  | .switchMode => switchMode s
  | .poll => pollSource s

/-! ## All moves that run no instruction -/

/-- The effect of a move that runs no instruction. DEC and BUS have a turn here only while `rst` is asserted, which overrides their
steps (R247); the move `address` comes here when no row's address window is ending, and then does nothing. -/
def environment (m : Move) (s : State) : State :=
  match m with
  | .tick => tickSource s
  | .dec => s
  | .bus => s
  | .address => s
  | .takeEvent => takePending s
  | .handByte => handByte s
  | .issue => nextAct s
  | .loop => loopTurn s
  | .hostInit => hostStart s
  | .request w => { s with env := { s.env with acts := s.env.acts ++ [.command w] } }
  | .receive b => { s with env := { s.env with uart := s.env.uart ++ [b] } }
  | .setMode mode => { s with env := { s.env with modeSignal := mode } }
  | .setKeys keys => { s with env := { s.env with keysNow := keys } }
  | .rstAssert => { blockReset s with port := { s.port with rst := true } }
  | .rstRelease => rstRelease s

end Sys2Proof.Machine
end

