-- ==== Sys2Proof/Machine/Fetch.lean ====
section
/-! DEFINITION. Which instruction a move runs. The analogue of the program counter is `bus.phase` for BUS and `dec.state` for DEC (R2);
the words are on the ports, on the lines and in `dec.ev`. And the reverse: a state in which a given instruction is the next to run
(log entry 28). -/

namespace Sys2Proof.Machine

/-- The row of a phase (R98). -/
def Phase.instr : Phase → Instr
  | .idle => .phaseIdle
  | .w0 => .w0
  | .w1 => .w1
  | .w2 => .w2
  | .w3 => .w3
  | .w4 => .w4
  | .w5 => .w5
  | .w6 => .w6
  | .w7 => .w7
  | .w8 => .w8
  | .w9 => .w9
  | .w10 => .w10
  | .w11 => .w11
  | .w12 => .w12
  | .w13 => .w13
  | .w14 => .w14
  | .w15 => .w15
  | .w16 => .w16
  | .w17 => .w17
  | .w18 => .w18
  | .x0 => .x0
  | .x1 => .x1
  | .x2 => .x2
  | .x3 => .x3

/-- The row of a decoder state (R21). -/
def DecState.instr : DecState → Instr
  | .awaitingStatus => .stateAwaitingStatus
  | .awaitingNote => .stateAwaitingNote
  | .awaitingVelocity => .stateAwaitingVelocity

/-- What DEC runs on its turn: the byte presented while it is ready (R186), else its state's row, which then does nothing. -/
def fetchDec (s : State) : Instr :=
  match s.port.rx with
  | none => s.dec.state.instr
  | some b => if rxReady s then decodeInputByte b else s.dec.state.instr

/-- What BUS runs on its turn: the micro-step of `bus.phase`; in `Idle` the command presented, if there is one (R120). A command
presented in any other phase stays on the port (R151). -/
def fetchBus (s : State) : Instr :=
  match s.bus.phase, s.port.cmd with
  | .idle, some w => decodeCommand w
  | p, _ => p.instr

/-- The row of the event the host takes, if one is pending (R186). -/
def fetchEvent (s : State) : Option Instr :=
  if s.dec.evValid then s.dec.ev.instr? else none

/-- The row of the address on the lines, when BUS is about to end the address window (R99, R129). -/
def fetchAddress (s : State) : Option Instr :=
  if s.bus.phase = .w7 then decodeTarget s.line.d else none

/-- The instruction that a move runs. `none`: the move runs none, or, for DEC and BUS, `rst` overrides it (R247). -/
def fetch (m : Move) (s : State) : Option Instr :=
  match m with
  | .dec => if s.port.rst then none else some (fetchDec s)
  | .bus => if s.port.rst then none else some (fetchBus s)
  | .address => if s.port.rst then none else fetchAddress s
  | .takeEvent => fetchEvent s
  | .loop => match loopAct s with
    | .takeEvent => fetchEvent s
    | _ => none
  | _ => none

/-! ## Placing an instruction where the next step fetches it -/

/-- A byte on DEC's port, DEC ready, DEC's turn next. -/
def placeByte (b : Byte) (s : State) : State :=
  { s with
    port := { s.port with rx := some b, rst := false }
    dec := { s.dec with evValid := false }
    moves := .dec :: s.moves }

/-- A command on BUS's port, BUS in `Idle`, BUS's turn next. -/
def placeCommand (w : CmdWord) (s : State) : State :=
  { s with
    port := { s.port with cmd := some w, rst := false }
    bus := { s.bus with phase := .idle }
    moves := .bus :: s.moves }

/-- BUS in a phase, BUS's turn next. -/
def placePhase (p : Phase) (s : State) : State :=
  { s with
    port := { s.port with rst := false }
    bus := { s.bus with phase := p }
    moves := .bus :: s.moves }

/-- DEC in a state with no byte presented, DEC's turn next. -/
def placeState (q : DecState) (s : State) : State :=
  { s with
    port := { s.port with rx := none, rst := false }
    dec := { s.dec with state := q }
    moves := .dec :: s.moves }

/-- An address on the data lines, BUS at the end of the address window, BUS's turn next. -/
def placeAddress (a : Byte) (s : State) : State :=
  { s with
    port := { s.port with rst := false }
    bus := { s.bus with phase := .w7 }
    line := { s.line with d := a }
    moves := .address :: s.moves }

/-- An event pending, the host's turn to take it next. -/
def placeEvent (e : NoteEvent) (s : State) : State :=
  { s with dec := { s.dec with ev := e, evValid := true }, moves := .takeEvent :: s.moves }

/-- The state in which `i` is what the very next step runs. -/
def place (i : Instr) (s : State) : State :=
  match i with
  | .noteOffStatus x => placeByte (statusByte 0x8#4 x) s
  | .noteOnStatus x => placeByte (statusByte 0x9#4 x) s
  | .unrecognisedStatusA x => placeByte (statusByte 0xA#4 x) s
  | .unrecognisedStatusB x => placeByte (statusByte 0xB#4 x) s
  | .unrecognisedStatusC x => placeByte (statusByte 0xC#4 x) s
  | .unrecognisedStatusD x => placeByte (statusByte 0xD#4 x) s
  | .unrecognisedStatusE x => placeByte (statusByte 0xE#4 x) s
  | .unrecognisedStatusF x => placeByte (statusByte 0xF#4 x) s
  | .dataByte d => placeByte (dataByteOf d) s
  | .write a d => placeCommand (writeWord a d) s
  | .chipReset x => placeCommand (chipResetWord x) s
  | .phaseIdle => placePhase .idle { s with port := { s.port with cmd := none } }
  | .w0 => placePhase .w0 s
  | .w1 => placePhase .w1 s
  | .w2 => placePhase .w2 s
  | .w3 => placePhase .w3 s
  | .w4 => placePhase .w4 s
  | .w5 => placePhase .w5 s
  | .w6 => placePhase .w6 s
  | .w7 => placePhase .w7 s
  | .w8 => placePhase .w8 s
  | .w9 => placePhase .w9 s
  | .w10 => placePhase .w10 s
  | .w11 => placePhase .w11 s
  | .w12 => placePhase .w12 s
  | .w13 => placePhase .w13 s
  | .w14 => placePhase .w14 s
  | .w15 => placePhase .w15 s
  | .w16 => placePhase .w16 s
  | .w17 => placePhase .w17 s
  | .w18 => placePhase .w18 s
  | .x0 => placePhase .x0 s
  | .x1 => placePhase .x1 s
  | .x2 => placePhase .x2 s
  | .x3 => placePhase .x3 s
  | .stateAwaitingStatus => placeState .awaitingStatus s
  | .stateAwaitingNote => placeState .awaitingNote s
  | .stateAwaitingVelocity => placeState .awaitingVelocity s
  | .regRhythmDisable => placeAddress 0x0E#8 s
  | .regFreqLow v => placeAddress (voiceAddress 0x1#4 v) s
  | .regOctGate v => placeAddress (voiceAddress 0x2#4 v) s
  | .regInstVol v => placeAddress (voiceAddress 0x3#4 v) s
  | .eventOff x n => placeEvent (.off (dataByteOf n) x) s
  | .eventOn x n v => placeEvent (.on (dataByteOf n) x (dataByteOf v)) s

end Sys2Proof.Machine
end

