-- ==== Sys2Proof/Machine/Step.lean ====
section
/-! DEFINITION. One step of the machine: the next move of the list is made. A move that runs an instruction is `exec` of it; with no
move scheduled the tick source steps, the one agent that is always enabled (R250; log entry 1). -/

namespace Sys2Proof.Machine

/-- One step. -/
def step (s : State) : Host.Outcome State Fault Refusal :=
  match s.moves with
  | [] => .next (tickSource s)
  | m :: rest =>
    let now := { s with moves := rest }
    match fetch m now with
    | some i => exec i now
    | none => .next (environment m now)

/-- `s` with the instruction of a table word where the next step fetches it: on its port, in `bus.phase`, in `dec.state`, on the
lines or in `dec.ev`, and its agent's turn next (log entry 28). A word that is no instruction places nothing. -/
def State.withFetchWord (s : State) (nbits w : Nat) : State :=
  match decodeTableWord nbits w with
  | none => s
  | some i => place i s

end Sys2Proof.Machine
end

