-- ==== Sys2Proof/Machine/Ports.lean ====
section
/-! DEFINITION. The output ports (R42) and the electrical levels of the lines (R9), as functions of the state: what the outside can
see of the block. No step reads them. -/

namespace Sys2Proof.Machine

/-- An electrical level (R9): low, high, or high impedance. -/
inductive Pin
  | low | high | z
  deriving DecidableEq, Repr

/-- A level as a pin. -/
def Level.pin : Level → Pin
  | .l => .low
  | .h => .high

/-- The opposite level. -/
def Level.opposite : Level → Level
  | .l => .h
  | .h => .l

/-- An `Idle` control line whose deasserted level is `deasserted` (R9). -/
def idlePin (p : Params) (deasserted : Level) : Pin :=
  match p.idleDrive with
  | .h => deasserted.pin
  | .z => .z

/-- `bus_we` (R9): asserted low; `Idle` high, or released. -/
def wePin (p : Params) : WeLine → Pin
  | .l => .low
  | .h => .high
  | .idle => idlePin p .h

/-- `bus_cs` (R9). -/
def csPin (p : Params) : CsLine → Pin
  | .asserted => p.csActive.pin
  | .deasserted => p.csActive.opposite.pin
  | .idle => idlePin p p.csActive.opposite

/-- `bus_ic` (R9). -/
def icPin (p : Params) : IcLine → Pin
  | .asserted => p.icActive.pin
  | .deasserted => p.icActive.opposite.pin

/-- The output ports of R42; `busWeDriven` and `busCsDriven` are the output enables of `bus_we` and `bus_cs`. -/
structure Outputs where
  rxReady : Bool
  evValid : Bool
  ev : BitVec 21
  cmdReady : Bool
  busy : Bool
  busWe : Pin
  busA0 : Pin
  busCs : Pin
  busD : Byte
  busIc : Pin
  busWeDriven : Bool
  busCsDriven : Bool
  deriving DecidableEq, Repr

/-- The outputs in a state (R42, R97). -/
def outputs (s : State) : Outputs where
  rxReady := Sys2Proof.Machine.rxReady s
  evValid := s.dec.evValid
  ev := s.dec.ev.pack
  cmdReady := Sys2Proof.Machine.cmdReady s
  busy := Sys2Proof.Machine.busy s
  busWe := wePin s.params s.line.we
  busA0 := s.line.a0.pin
  busCs := csPin s.params s.line.cs
  busD := s.line.d
  busIc := icPin s.params s.line.ic
  busWeDriven := wePin s.params s.line.we != .z
  busCsDriven := csPin s.params s.line.cs != .z

end Sys2Proof.Machine
end

