-- ==== Sys2Proof/Safety.lean ====
section
/-! DEFINITION. What claims are stated in: the parameter constraints of R7, the invariants of the lines (R144) and of the decoder
(R24 to R27), what a run owes in ticks (R145), the assumption of R141, the fairness of the tick source (R277), the schedule of the earliest write,
streams of bytes, and the end and the observation of a run (R282). -/

namespace Sys2Proof

/-- The byte of an input-byte row. -/
def Instr.byte? : Instr → Option Byte
  | .noteOffStatus x => some (Machine.statusByte 0x8#4 x)
  | .noteOnStatus x => some (Machine.statusByte 0x9#4 x)
  | .unrecognisedStatusA x => some (Machine.statusByte 0xA#4 x)
  | .unrecognisedStatusB x => some (Machine.statusByte 0xB#4 x)
  | .unrecognisedStatusC x => some (Machine.statusByte 0xC#4 x)
  | .unrecognisedStatusD x => some (Machine.statusByte 0xD#4 x)
  | .unrecognisedStatusE x => some (Machine.statusByte 0xE#4 x)
  | .unrecognisedStatusF x => some (Machine.statusByte 0xF#4 x)
  | .dataByte d => some (Machine.dataByteOf d)
  | _ => none

/-- The address of a target-address row. -/
def Instr.address? : Instr → Option Byte
  | .regRhythmDisable => some 0x0E#8
  | .regFreqLow v => some (Machine.voiceAddress 0x1#4 v)
  | .regOctGate v => some (Machine.voiceAddress 0x2#4 v)
  | .regInstVol v => some (Machine.voiceAddress 0x3#4 v)
  | _ => none

end Sys2Proof

namespace Sys2Proof.Machine

/-! ## Parameters -/

/-- The constraints of R7. -/
def Params.admissible (p : Params) : Prop :=
  1 ≤ p.tickW ∧ p.tSettle < 2 ^ p.tickW ∧ p.tAddrLatch < 2 ^ p.tickW ∧ p.tDataLatch < 2 ^ p.tickW ∧
  p.tResetPark < 2 ^ p.tickW ∧ 0 < p.tTick ∧
  p.noteOnNibble.getLsbD 3 = true ∧ p.noteOffNibble.getLsbD 3 = true ∧ p.noteOffNibble ≠ p.noteOnNibble ∧
  1 ≤ p.nVoices ∧ p.nVoices ≤ 16

/-! ## Lines and windows (R144, R152) -/

/-- The control lines, address-select and data lines that the protocol has on them while phase `ph` is the next to be performed
(R122 to R140, R146 to R149). -/
def linesFor (p : Params) (ph : Phase) (b : Bus) (l : Lines) : Prop :=
  match ph with
  | .idle | .w0 | .x0 | .x1 => l.we = .idle ∧ l.cs = .idle
  | .w1 => l.we = .l ∧ l.cs = .idle
  | .w2 | .w3 => l.we = .l ∧ l.a0 = .l ∧ l.cs = .idle
  | .w4 | .w5 => l.we = .l ∧ l.a0 = .l ∧ l.cs = .idle ∧ l.d = b.addr
  | .w6 | .w7 => l.we = .l ∧ l.a0 = .l ∧ l.cs = .asserted ∧ l.d = b.addr
  | .w8 => l.we = .l ∧ l.a0 = .l ∧ l.cs = .deasserted ∧ l.d = b.addr
  | .w9 => l.we = .l ∧ l.a0 = .h ∧ l.cs = .deasserted ∧ l.d = b.addr
  | .w10 | .w11 => l.we = .h ∧ l.a0 = .h ∧ l.cs = .deasserted ∧ l.d = b.addr
  | .w12 => l.we = .h ∧ l.a0 = .h ∧ l.cs = .deasserted ∧ l.d = b.data
  | .w13 | .w14 => l.we = .l ∧ l.a0 = .h ∧ l.cs = .deasserted ∧ l.d = b.data
  | .w15 | .w16 => l.we = .l ∧ l.a0 = .h ∧ l.cs = .asserted ∧ l.d = b.data
  | .w17 => l.we = .l ∧ l.a0 = .h ∧ l.cs = .deasserted ∧ l.d = b.data
  | .w18 => l.we = .idle ∧ l.a0 = .h ∧ l.cs = .deasserted ∧ l.d = b.data
  | .x2 | .x3 => l.we = .idle ∧ l.cs = .idle ∧ l.a0 = p.parkA0 ∧ l.d = p.parkD

/-- The target is held in reset from `X0` until `X3` is performed (R144 item 7). -/
def icFor (ph : Phase) (l : Lines) : Prop :=
  match ph with
  | .x1 | .x2 | .x3 => l.ic = .asserted
  | _ => True

/-- The open window is settled and steady and at least `n` ticks old. -/
def Window.goodFor (n : Nat) : Option Window → Prop
  | none => False
  | some w => w.settled = true ∧ w.steady = true ∧ n ≤ w.ticks

/-- What the observer has seen while phase `ph` is the next to be performed: quiet lines before a window opens (R144 item 4), and a
window that is good so far (R144 items 2 and 5). -/
def windowFor (s : State) : Prop :=
  match s.bus.phase with
  | .w4 | .w13 => s.chip.window = none ∧ elapsed s ≤ s.chip.stable
  | .w5 | .w14 => s.chip.window = none ∧ s.params.tSettle ≤ s.chip.stable
  | .w6 | .w15 => Window.goodFor (elapsed s) s.chip.window
  | .w7 => Window.goodFor s.params.tAddrLatch s.chip.window
  | .w16 => Window.goodFor s.params.tDataLatch s.chip.window
  | _ => s.chip.window = none

/-- The address latched in the target while the data phase of a write runs (R129, R71), when the target is not held in reset. -/
def latchFor (s : State) : Prop :=
  match s.bus.phase with
  | .w8 | .w9 | .w10 | .w11 | .w12 | .w13 | .w14 | .w15 | .w16 => s.line.ic = .deasserted → s.chip.latch = s.bus.addr
  | _ => True

/-- The sequencer's invariant. -/
def BusInv (s : State) : Prop :=
  s.tick < 2 ^ s.params.tickW ∧ s.bus.t0 < 2 ^ s.params.tickW ∧
  linesFor s.params s.bus.phase s.bus s.line ∧ icFor s.bus.phase s.line ∧ windowFor s ∧ latchFor s ∧
  s.chip.reg.wf s.chip.regDraw = true

/-! ## The decoder (R22 to R27, R184) -/

/-- The decoder's invariant: data bytes have bit 7 clear (R24, R25), a message in progress has an opcode (R184), a pending event is one
that DEC can emit (R189). -/
def DecInv (s : State) : Prop :=
  isStatus s.dec.buf.note = false ∧ isStatus s.dec.buf.velocity = false ∧
  (s.dec.state ≠ .awaitingStatus → s.dec.buf.opcode.isSome = true) ∧
  (s.dec.evValid = true → s.dec.ev.emittable = true)

/-! ## `rst` and the host -/

/-- While `rst` is asserted the block is at its reset values (R44). -/
def RstInv (s : State) : Prop :=
  s.port.rst = true → s.dec.state = .awaitingStatus ∧ s.dec.buf = ⟨none, 0#4, 0#8, 0#8⟩ ∧ s.dec.evValid = false ∧
    s.bus.phase = .idle ∧ s.line = Lines.atReset s.params

/-- The voice table has `N` slots and the cursor is in `[0, N)` (R205, R206); and while the host owes the `chip_reset()` that comes
before its first write, it presents no command (R272). -/
def EnvInv (s : State) : Prop :=
  s.env.table.length = s.params.nVoices ∧ s.env.cursor < s.params.nVoices ∧
  (s.env.owesChipReset = true → s.port.cmd = none)

/-- The whole invariant. -/
def Inv (s : State) : Prop :=
  s.params.admissible ∧ BusInv s ∧ DecInv s ∧ RstInv s ∧ EnvInv s

/-! ## Ticks owed (R145) -/

/-- The ticks that the waits of a command still have to see, from phase `ph` on, when the wait in progress has seen `e`. -/
def ticksOwed (p : Params) (e : Nat) : Phase → Nat
  | .idle => 0
  | .w0 | .w1 => 4 * p.tSettle + p.tAddrLatch + p.tDataLatch
  | .w2 => (p.tSettle - e) + 3 * p.tSettle + p.tAddrLatch + p.tDataLatch
  | .w3 => 3 * p.tSettle + p.tAddrLatch + p.tDataLatch
  | .w4 => (p.tSettle - e) + 2 * p.tSettle + p.tAddrLatch + p.tDataLatch
  | .w5 => 2 * p.tSettle + p.tAddrLatch + p.tDataLatch
  | .w6 => (p.tAddrLatch - e) + 2 * p.tSettle + p.tDataLatch
  | .w7 | .w8 | .w9 => 2 * p.tSettle + p.tDataLatch
  | .w10 => (p.tSettle - e) + p.tSettle + p.tDataLatch
  | .w11 | .w12 => p.tSettle + p.tDataLatch
  | .w13 => (p.tSettle - e) + p.tDataLatch
  | .w14 => p.tDataLatch
  | .w15 => p.tDataLatch - e
  | .w16 | .w17 | .w18 => 0
  | .x0 | .x1 => p.tResetPark
  | .x2 => p.tResetPark - e
  | .x3 => 0

/-- The ticks owed in a state. -/
def State.owed (s : State) : Nat := ticksOwed s.params (elapsed s) s.bus.phase

/-- Whether the next step is the tick source's. -/
def State.tickNext (s : State) : Bool := s.moves.isEmpty || s.moves.head? == some .tick

/-! ## The assumption of R141: BUS is not starved -/

/-- The ticks that pass before BUS's next turn. -/
def ticksBeforeBus : List Move → Nat
  | [] => 0
  | m :: rest => if m = .bus then 0 else ticksBeforeBus rest + (if m = .tick then 1 else 0)

/-- BUS's next turn comes before the modular tick difference wraps: with `tick` modular, R141 asks a model whose scheduler may starve
BUS to add this assumption (log entry 31). -/
def Polled (s : State) : Prop :=
  .bus ∈ s.moves ∧ elapsed s + ticksBeforeBus s.moves < 2 ^ s.params.tickW

/-! ## Endless runs: the fairness of the tick source (R277) -/

/-- One step in which the move is `m`, whatever was scheduled. No step faults or is refused (R14, `EveryStepAnswersANextState`). -/
def State.after (s : State) (m : Move) : State :=
  match step { s with moves := [m] } with
  | .next t => t
  | .fault _ => s
  | .refused _ => s

/-- The state after `k` steps of the endless run from `s` in which `sched j` is the move of step `j` (R247; log entry 1). -/
def runUnder (sched : Nat → Move) (s : State) : Nat → State
  | 0 => s
  | k + 1 => (runUnder sched s k).after (sched k)

/-- Weak fairness: an action that is enabled from some step on is taken at that step or later. -/
def WeaklyFair (enabled taken : Nat → Prop) : Prop :=
  ∀ k, (∀ j, k ≤ j → enabled j) → ∃ j, k ≤ j ∧ taken j

/-- Weak fairness of the tick agent (R277), which is always enabled (R250). The model's runs need not be fair; a claim that a wait ends
has this as a hypothesis (log entry 25). -/
def TickFair (sched : Nat → Move) : Prop := WeaklyFair (fun _ => True) (fun k => sched k = .tick)

/-- The ticks among the `len` moves from move `i` on. -/
def ticksAmong (sched : Nat → Move) (i : Nat) : Nat → Nat
  | 0 => 0
  | len + 1 => ticksAmong sched i len + (if sched (i + len) = .tick then 1 else 0)

/-- The assumption of R141 over an endless run: BUS is nowhere without a turn for `2^TICK_W - n` ticks, for `n` the parameter of any
wait (log entry 31). -/
def BusNotStarved (p : Params) (sched : Nat → Move) : Prop :=
  ∀ i len, (∀ j, j < len → sched (i + j) ≠ .bus) →
    ∀ n ∈ [p.tSettle, p.tAddrLatch, p.tDataLatch, p.tResetPark], ticksAmong sched i len + n < 2 ^ p.tickW

/-! ## Schedules -/

/-- `n` ticks, then BUS's turn. -/
def ticksThenBus (n : Nat) : List Move := List.replicate n .tick ++ [.bus]

/-- The earliest run of a WRITE that is on the command port (95_test_vectors.md section 3.3): acceptance, 19 micro-steps, each wait
left as soon as its ticks have come. -/
def writeSchedule (p : Params) : List Move :=
  [.bus, .bus, .bus] ++ ticksThenBus p.tSettle ++ [.bus] ++ ticksThenBus p.tSettle ++ [.bus] ++
  ticksThenBus p.tAddrLatch ++ [.bus, .bus, .bus] ++ ticksThenBus p.tSettle ++ [.bus, .bus] ++
  ticksThenBus p.tSettle ++ [.bus] ++ ticksThenBus p.tDataLatch ++ [.bus, .bus, .bus]

/-- The earliest run of a CHIP_RESET that is on the command port. -/
def chipResetSchedule (p : Params) : List Move :=
  [.bus, .bus, .bus] ++ ticksThenBus p.tResetPark ++ [.bus]

/-! ## Byte streams -/

/-- DEC's state and buffer. -/
structure DecMemory where
  state : DecState
  buf : MsgBuf
  deriving DecidableEq, Repr

/-- DEC on a byte stream, each event handed to the host in the step that emits it (R27, R186): the final state and all events in
order. -/
def decRun (p : Params) (m : DecMemory) : List Byte → DecMemory × List NoteEvent
  | [] => (m, [])
  | b :: rest =>
    let out := decStep p m.state m.buf b
    let later := decRun p ⟨out.state, out.buf⟩ rest
    (later.1, out.ev.toList ++ later.2)

/-- The decoder's state at reset (R44). -/
def DecMemory.reset : DecMemory := ⟨.awaitingStatus, ⟨none, 0#4, 0#8, 0#8⟩⟩

/-- The number of data bytes in a stream. -/
def dataBytes (bs : List Byte) : Nat := (bs.filter (fun b => !isStatus b)).length

/-! ## Claims' vocabulary -/

/-- Every byte of the target's address space reads the same. -/
def SameMemory (s t : State) : Prop := ∀ a : Byte, chipRead t a = chipRead s a

/-- Nothing but `dec` and the byte port differs. -/
def SameButDec (s t : State) : Prop :=
  t.params = s.params ∧ t.bus = s.bus ∧ t.line = s.line ∧ t.tick = s.tick ∧ t.port.cmd = s.port.cmd ∧ t.port.rst = s.port.rst ∧
  t.chip = s.chip ∧ SameMemory s t ∧ t.env = s.env ∧ t.moves = s.moves ∧ t.draws = s.draws

/-- Nothing but `bus`, the lines and the observer differs. -/
def SameButBus (s t : State) : Prop :=
  t.params = s.params ∧ t.dec = s.dec ∧ t.tick = s.tick ∧ t.port = s.port ∧ t.env = s.env ∧ t.moves = s.moves ∧ t.draws = s.draws

/-- Nothing but `bus` and the lines differs, and in the observer nothing but what it has seen of the lines: its latch and every register
are the same. -/
def SameButLines (s t : State) : Prop :=
  SameButBus s t ∧ t.chip.latch = s.chip.latch ∧ SameMemory s t

/-- The host when all its acts are done (R201): the table as they leave it, nothing left to do. -/
def Env.settle (e : Env) : Env :=
  { e with table := e.acts.foldl (fun table a => a.onTable table) e.table, acts := [] }

/-- The commands among the host's acts, in order. -/
def commandsOf (acts : List HostAct) : List CmdWord :=
  acts.filterMap (fun a => match a with
    | .command w => some w
    | .claim _ _ _ => none
    | .release _ => none
    | .allOff => none)

/-- A run of `noteOn` calls, each completed before the next (R201): the host after it, and the answers in order. -/
def noteOnAll (p : Params) (e : Env) : List (Byte × Nibble × Byte) → Env × List AllocResult
  | [] => (e, [])
  | (note, instrument, velocity) :: rest =>
    let one := noteOn p note instrument velocity e
    let later := noteOnAll p one.1.settle rest
    (later.1, one.2 :: later.2)

/-! ## The end of a run and its observation (R282) -/

/-- A move that brings the block or its host something new to do. -/
def Move.bringsInput : Move → Bool
  | .request _ | .receive _ | .setMode _ | .setKeys _ | .hostInit | .rstAssert | .rstRelease => true
  | .tick | .dec | .bus | .address | .takeEvent | .handByte | .issue | .loop => false

/-- The input stream given to the block is exhausted: no byte on the port, none waiting, none to come. Bytes that wait at the UART count
in matrix mode too, and a move that brings the host something new counts as input to come, by the model's choice (log entry 36). -/
def State.inputExhausted (s : State) : Bool :=
  s.port.rx.isNone && s.env.uart.isEmpty && s.moves.all (fun m => !m.bringsInput)

/-- The host has no command left to issue: none presented, none decided, no event or mode switch that would bring one. R282 speaks of
commands only. The model's choices (log entry 36): a run has not ended while a change of the voice table is still to come (a trailing
`release` or `allOff`, with no command after it, counts), nor while a key event is still to be handled or polled, whatever commands
that brings; and neither an asserted `rst` nor the `chip_reset()` owed before the first write (R215, R272) keeps a run from having
ended, as long as the release of `rst` is not among the moves to come. -/
def State.nothingToIssue (s : State) : Bool :=
  s.port.cmd.isNone && s.env.acts.isEmpty && s.env.keyEvents.isEmpty && s.env.mode == s.env.modeSignal &&
  (s.env.mode == .serial || (keyDiff s.env.keysNow s.env.keysPrev).isEmpty)

/-- The end of a run (R282): the input stream is exhausted, no event is pending, BUS is `Idle`, the host has no command left to
issue. A state with `rst` asserted can meet it, by the model's choice (log entry 36). -/
def State.ended (s : State) : Bool :=
  s.inputExhausted && !s.dec.evValid && s.bus.phase == .idle && s.nothingToIssue

/-- The event that DEC emits in the step from `s` to `t` (R186): it becomes pending. -/
def emitted (s t : State) : List NoteEvent := if !s.dec.evValid && t.dec.evValid then [t.dec.ev] else []

/-- The write that the lines perform in the step from `s` to `t` (R152): a good data cycle ends, not cut short by `rst` (R271), and the
target is not held in reset. -/
def performed (s t : State) : List (Byte × Byte) :=
  match s.chip.window with
  | none => []
  | some w =>
    if s.line.cs = .asserted ∧ t.line.cs ≠ .asserted ∧ s.moves.head? ≠ some .rstAssert ∧ s.line.ic = .deasserted ∧
        s.line.a0 = .h ∧ goodCycle s.params w s.line = true then [(s.chip.latch, s.line.d)]
    else []

/-- The observation of a run (R282): the events that DEC emitted and the writes that the lines performed, each in order; and at its end
`chip.reg`, DEC's state and buffer, and the lines. -/
structure Observation where
  events : List NoteEvent
  writes : List (Byte × Byte)
  reg : Vector Byte 256
  state : DecState
  buf : MsgBuf
  line : Lines
  deriving DecidableEq, Repr

/-- The observation of the run of `n` steps from `s`. -/
def observation : Nat → State → Observation
  | 0, s =>
    { events := [], writes := [], reg := Vector.ofFn (fun a => chipRead s (BitVec.ofNat 8 a.val)), state := s.dec.state,
      buf := s.dec.buf, line := s.line }
  | n + 1, s =>
    match step s with
    | .next t =>
      let later := observation n t
      { later with events := emitted s t ++ later.events, writes := performed s t ++ later.writes }
    | .fault _ => observation 0 s
    | .refused _ => observation 0 s

/-- The phase's number (R98). -/
def Phase.number (ph : Phase) : Nat := encode ph.instr

/-- It is BUS's turn, under either of its names. -/
def State.busTurn (s : State) : Prop := s.moves.head? = some .bus ∨ s.moves.head? = some .address

/-- The step is not the one that asserts `rst`. -/
def State.notResetting (s : State) : Prop := s.moves.head? ≠ some .rstAssert

end Sys2Proof.Machine
end

