-- ==== Sys2Proof/Certificates/Slice0/Obligations.lean ====
section
/-! DEFINITION. The statements about the model that are to be proved. Each docstring names the rules of spec/ it formalises or rests
on. -/

open Sys2Proof Sys2Proof.Machine

/-- Written-out words of each format decode to their rows (R90, R91, R92, R93, R96, R98, R100, R97, R21). The model's own part: log entry 27 for the refusal of phase 24. -/
def Obligations.DecodingReadsTheRowOfTheSpec : Prop :=
  decode .inputByte 0b10001111 = .ok (.noteOffStatus 0b1111#4) ∧
  decode .inputByte 0b10010101 = .ok (.noteOnStatus 0b0101#4) ∧
  decode .inputByte 0b10110010 = .ok (.unrecognisedStatusB 0b0010#4) ∧
  decode .inputByte 0b00111100 = .ok (.dataByte 0b0111100#7) ∧
  decode .busCommand 0b00011000000011111 = .ok (.write 0b00110000#8 0b00011111#8) ∧
  decode .busCommand 0b11010101111001101 = .ok (.chipReset 0b1010101111001101#16) ∧
  decode .busPhase 0b01100 = .ok .w11 ∧ decode .busPhase 0b10110 = .ok .x2 ∧
  decode .decState 0b10 = .ok .stateAwaitingVelocity ∧ decode .decState 0b11 = .ok .stateAwaitingStatus ∧
  decode .targetAddress 0b00001110 = .ok .regRhythmDisable ∧
  decode .targetAddress 0b00101000 = .ok (.regOctGate 0b1000#4) ∧
  decode .noteEvent 0b000010011110000000000 = .ok (.eventOff 0b0001#4 0b0111100#7) ∧
  decode .noteEvent 0b101010011110001100100 = .ok (.eventOn 0b0101#4 0b0111100#7 0b1100100#7) ∧
  decode .busPhase 0b11000 = .error .unreachablePhase ∧
  decode .targetAddress 0b01010101 = .error .unlistedAddress ∧
  decode .noteEvent 0b000010011110000000001 = .error .notAnEvent

/-- Decoding an encoded well-formed instruction gives it back, for every row (R90, R91, R94, R96, R97, R98, R100, R104). -/
def Obligations.DecodeUndoesEncode : Prop :=
  ∀ i : Instr, i.wellFormed = true → decode i.format (encode i) = .ok i

/-- Every input byte and every command word decodes, and encodes back to itself (R101, R96, R90). -/
def Obligations.EveryByteAndEveryCommandWordHasItsRow : Prop :=
  (∀ b : Byte, decode .inputByte b.toNat = .ok (decodeInputByte b) ∧ encode (decodeInputByte b) = b.toNat ∧
      (decodeInputByte b).format = .inputByte) ∧
  (∀ w : CmdWord, decode .busCommand w.toNat = .ok (decodeCommand w) ∧ encode (decodeCommand w) = w.toNat ∧
      (decodeCommand w).format = .busCommand)

/-- The 21-bit event port carries kind, instrument, note and velocity in their places, and an emittable event has its row (R97, R189). -/
def Obligations.EventPortPacksItsFields : Prop :=
  ∀ e : NoteEvent,
    (e.pack.getLsbD 20 = true ↔ ∃ n x v, e = .on n x v) ∧ e.pack.extractLsb' 16 4 = e.instrument ∧
    e.pack.extractLsb' 8 8 = e.note ∧ e.pack.extractLsb' 0 8 = e.velocity ∧
    (e.emittable = true → ∃ i, e.instr? = some i ∧ i.wellFormed = true ∧
      (∀ n x v, e = .on n x v → i = .eventOn x (n.extractLsb' 0 7) (v.extractLsb' 0 7)) ∧
      (∀ n x, e = .off n x → i = .eventOff x (n.extractLsb' 0 7)))

/-- Phase numbers: Idle 0, Wk = k + 1, Xk = k + 20, and the successor of a phase that is not the last of its command has the next number (R98, R28). -/
def Obligations.PhaseNumbersFollowTheSequence : Prop :=
  Phase.idle.number = 0 ∧ Phase.w0.number = 1 ∧ Phase.w18.number = 19 ∧ Phase.x0.number = 20 ∧ Phase.x3.number = 23 ∧
  (∀ p : Phase, p.number < 24 ∧ decodePhase p.number = some p.instr) ∧
  (∀ p q : Phase, p.number = q.number → p = q) ∧
  (∀ p : Phase, p ≠ .idle → p ≠ .w18 → p ≠ .x3 → p.succ.number = p.number + 1) ∧
  Phase.w18.succ = .idle ∧ Phase.x3.succ = .idle

/-- A step runs the instruction that the moving agent decodes (R2, R28, R120, R170, R186, R247). The model's own part: log entries 6 (the decoder-state row, run when there is no byte to take), 7 (the address row, run at the end of the address window) and 8 (the event row, run when the host takes the event). -/
def Obligations.StepRunsTheDecodedInstruction : Prop :=
  ∀ (s : State) (rest : List Move) (i : Instr),
    (s.moves = .dec :: rest → s.port.rst = false → s.dec.evValid = false →
      (∃ b, s.port.rx = some b ∧ decode .inputByte b.toNat = .ok i) → step s = exec i { s with moves := rest }) ∧
    (s.moves = .bus :: rest → s.port.rst = false → s.bus.phase = .idle →
      (∃ w, s.port.cmd = some w ∧ decode .busCommand w.toNat = .ok i) → step s = exec i { s with moves := rest }) ∧
    (s.moves = .bus :: rest → s.port.rst = false → (s.bus.phase ≠ .idle ∨ s.port.cmd = none) →
      decode .busPhase s.bus.phase.number = .ok i → step s = exec i { s with moves := rest }) ∧
    (s.moves = .dec :: rest → s.port.rst = false → (s.port.rx = none ∨ s.dec.evValid = true) →
      decode .decState (encode s.dec.state.instr) = .ok i → step s = exec i { s with moves := rest }) ∧
    (s.moves = .address :: rest → s.port.rst = false → s.bus.phase = .w7 → decode .targetAddress s.line.d.toNat = .ok i →
      step s = exec i { s with moves := rest }) ∧
    (s.moves = .takeEvent :: rest → s.dec.evValid = true → decode .noteEvent s.dec.ev.pack.toNat = .ok i →
      step s = exec i { s with moves := rest })

/-- Any instruction, placed in any state, is what the very next step runs (R2, R120, R170, R186). The model's own part: log entry 28. -/
def Obligations.PlacedInstructionIsTheNextToRun : Prop :=
  ∀ (i : Instr) (s : State), (∃ m, (place i s).moves = m :: s.moves) ∧
    step (place i s) = exec i { place i s with moves := s.moves }

/-- No step faults and no step refuses, from any state (R14, R185, R254, R240). The model's own part: log entries 1 (no move scheduled), 9 (a command presented while BUS is busy waits instead of being refused) and 11 (BUS's turn in an unfinished wait is a step that changes nothing). -/
def Obligations.EveryStepAnswersANextState : Prop :=
  ∀ s : State, ∃ t, step s = .next t ∧ (s.moves = [] → t = tickSource s)

/-- Only BUS's turn and rst change the sequencer or a line; only the tick source and rst change tick; no step changes a parameter (R12, R215, R247, R20). The model's own part: log entry 7 for the second name of BUS's turn. -/
def Obligations.OnlyBusMovesAndResetTouchTheBus : Prop :=
  ∀ s t : State, step s = .next t →
    t.params = s.params ∧
    (¬ s.busTurn → s.notResetting → t.bus = s.bus ∧ t.line = s.line) ∧
    (s.tickNext = false → s.notResetting → t.tick = s.tick)

/-- Only DEC's turn and rst change dec.state and the buffer; besides them only taking an event changes dec; in matrix mode no byte is handed to DEC (R20, R21, R170, R213). The model's own part: log entry 8: dec.ev, which R27 and U16 leave unspecified once the event is taken, keeps its value. -/
def Obligations.OnlyDecMovesTakesAndResetTouchTheDecoder : Prop :=
  ∀ s t : State, step s = .next t → s.notResetting →
    (s.moves.head? ≠ some .dec → t.dec.state = s.dec.state ∧ t.dec.buf = s.dec.buf ∧ t.dec.ev = s.dec.ev ∧
      (t.dec.evValid = true → s.dec.evValid = true)) ∧
    (s.moves.head? ≠ some .dec → s.moves.head? ≠ some .takeEvent → s.moves.head? ≠ some .loop → t.dec = s.dec) ∧
    (s.env.mode = .matrix → s.port.rx = none → t.port.rx = none)

/-- The assertion of rst, from any state, and State.reset, leave the block at the values of R44; its release makes the host start over (R270, R44, R215, R272, R273). The model's own part: log entries 22 (PARK_A0 and PARK_D of State.reset) and 15 (what the host drops and restores). -/
def Obligations.BlockResetPutsEveryElementAtItsResetValue : Prop :=
  (∀ (s : State) (rest : List Move), s.moves = .rstAssert :: rest → ∃ t, step s = .next t ∧
      t.dec.state = .awaitingStatus ∧ t.dec.buf = ⟨none, 0#4, 0#8, 0#8⟩ ∧ t.dec.evValid = false ∧ t.bus.phase = .idle ∧
      t.line = ⟨.idle, s.params.parkA0, .idle, s.params.parkD, .asserted⟩ ∧ t.tick < 2 ^ s.params.tickW ∧
      t.params = s.params ∧ t.moves = rest) ∧
  (State.reset.dec.state = .awaitingStatus ∧ State.reset.dec.buf = ⟨none, 0#4, 0#8, 0#8⟩ ∧
    State.reset.dec.evValid = false ∧ State.reset.bus.phase = .idle ∧
    State.reset.line = ⟨.idle, .l, .idle, 0x00#8, .asserted⟩ ∧ State.reset.params.parkA0 = .l ∧ State.reset.params.parkD = 0x00#8 ∧
    State.reset.tick < 2 ^ State.reset.params.tickW) ∧
  (∀ (s : State) (rest : List Move), s.moves = .rstRelease :: rest → s.port.rst = true → ∃ t, step s = .next t ∧
      t.dec = s.dec ∧ t.bus = s.bus ∧ t.line = s.line ∧ t.tick = s.tick ∧ t.chip = s.chip ∧
      t.port = { s.port with cmd := none, rst := false } ∧ t.env.table = List.replicate s.params.nVoices ⟨0#8, 0#4, false⟩ ∧
      t.env.cursor = 0 ∧ t.env.acts = [.command (chipResetWord 0#16)] ∧ t.env.owesChipReset = true ∧ t.moves = rest)

/-- The state after reset meets the whole invariant, whatever the OPEN parameters are (R7, R44, R144, R205, R206). The model's own part: log entries 2 and 3. -/
def Obligations.ResetMeetsTheInvariant : Prop :=
  Inv State.reset

/-- Every step keeps the sequencer's invariant: the lines of each phase, every chip-select window good so far, the latched address, canonical memory (R144, R152, R141, R37, R28). -/
def Obligations.EveryStepKeepsTheBusInvariant : Prop :=
  ∀ s t : State, BusInv s → step s = .next t → BusInv t

/-- Every step keeps the decoder's invariant (R24, R25, R184, R189). -/
def Obligations.EveryStepKeepsTheDecoderInvariant : Prop :=
  ∀ s t : State, DecInv s → step s = .next t → DecInv t

/-- While rst is asserted the block stays at its reset values, whichever agent moves (R44, R247). The model's own part: log entry 13. -/
def Obligations.BlockStaysAtResetWhileRstIsAsserted : Prop :=
  ∀ s t : State, RstInv s → step s = .next t → RstInv t

/-- Every step keeps the voice table at N slots, the cursor in [0, N) and the port empty while chip_reset() is owed; only that command on the port ends this (R205, R206, R272, R215). The model's own part: log entry 15 for hostInit. -/
def Obligations.EveryStepKeepsTheHostInvariant : Prop :=
  ∀ s t : State, 1 ≤ s.params.nVoices → EnvInv s → step s = .next t →
    EnvInv t ∧ (s.env.owesChipReset = true → t.env.owesChipReset = false → ∃ w, t.port.cmd = some w ∧ w.getLsbD 16 = true)

/-- A status byte with a recognised nibble, in any state, starts a message with its opcode and instrument (R173, R174). -/
def Obligations.RecognisedStatusByteStartsItsMessage : Prop :=
  ∀ (s : State) (i : Instr) (b : Byte) (op : Opcode), i.byte? = some b → 128 ≤ b.toNat → s.dec.evValid = false →
    ((b.toNat / 16 = s.params.noteOnNibble.toNat ∧ op = .noteOn) ∨
     (b.toNat / 16 = s.params.noteOffNibble.toNat ∧ s.params.noteOffNibble ≠ s.params.noteOnNibble ∧ op = .noteOff)) →
    ∃ t, exec i s = .next t ∧ t.dec = { s.dec with
        state := .awaitingNote, buf := ⟨some op, BitVec.ofNat 4 (b.toNat % 16), 0#8, 0#8⟩ } ∧
      t.port.rx = none ∧ SameButDec s t

/-- A status byte with an unrecognised nibble, in any state, is absorbed: buffer reset, AwaitingStatus, no event (R175). -/
def Obligations.UnrecognisedStatusByteResetsTheDecoder : Prop :=
  ∀ (s : State) (i : Instr) (b : Byte), i.byte? = some b → 128 ≤ b.toNat → s.dec.evValid = false →
    b.toNat / 16 ≠ s.params.noteOnNibble.toNat → b.toNat / 16 ≠ s.params.noteOffNibble.toNat →
    ∃ t, exec i s = .next t ∧ t.dec = { s.dec with state := .awaitingStatus, buf := ⟨none, 0#4, 0#8, 0#8⟩ } ∧
      t.port.rx = none ∧ SameButDec s t

/-- The block's one exception: a MalformedByte ends in AwaitingStatus, empties the buffer if it is a status byte, emits and saves nothing (R241). -/
def Obligations.MalformedByteIsAbsorbed : Prop :=
  ∀ (s : State) (i : Instr) (b : Byte), i.byte? = some b → s.dec.evValid = false → ∃ t, exec i s = .next t ∧
    (t.dec.state = .awaitingStatus ↔
      (128 ≤ b.toNat ∧ b.toNat / 16 ≠ s.params.noteOnNibble.toNat ∧ b.toNat / 16 ≠ s.params.noteOffNibble.toNat) ∨
      (b.toNat < 128 ∧ s.dec.state = .awaitingStatus)) ∧
    (isMalformed s.params s.dec.state b = true ↔ t.dec.state = .awaitingStatus) ∧
    (isMalformed s.params s.dec.state b = true →
      t.dec = { s.dec with state := .awaitingStatus, buf := if 128 ≤ b.toNat then ⟨none, 0#4, 0#8, 0#8⟩ else s.dec.buf } ∧
      t.port.rx = none ∧ SameButDec s t)

/-- With the default nibbles the eight status rows do what their names say (R92, R93, R173, R174, R175). -/
def Obligations.StatusRowsUnderTheDefaultNibbles : Prop :=
  ∀ (s : State) (x : Nibble), s.params.noteOnNibble = 0x9#4 → s.params.noteOffNibble = 0x8#4 → s.dec.evValid = false →
    (∃ t, exec (.noteOnStatus x) s = .next t ∧ t.dec.state = .awaitingNote ∧ t.dec.buf = ⟨some .noteOn, x, 0#8, 0#8⟩ ∧
      t.dec.evValid = false ∧ SameButDec s t) ∧
    (∃ t, exec (.noteOffStatus x) s = .next t ∧ t.dec.state = .awaitingNote ∧ t.dec.buf = ⟨some .noteOff, x, 0#8, 0#8⟩ ∧
      t.dec.evValid = false ∧ SameButDec s t) ∧
    (∀ i ∈ [Instr.unrecognisedStatusA x, .unrecognisedStatusB x, .unrecognisedStatusC x, .unrecognisedStatusD x,
        .unrecognisedStatusE x, .unrecognisedStatusF x],
      ∃ t, exec i s = .next t ∧ t.dec.state = .awaitingStatus ∧ t.dec.buf = ⟨none, 0#4, 0#8, 0#8⟩ ∧
        t.dec.evValid = false ∧ SameButDec s t)

/-- A status byte gives the same next state whatever the decoder's state and partial note were (R171, R181, R182). -/
def Obligations.StatusByteIsHandledAlikeInEveryState : Prop :=
  ∀ (s : State) (i : Instr) (b : Byte) (q : DecState) (n v : Byte), i.byte? = some b → 128 ≤ b.toNat → s.dec.evValid = false →
    exec i { s with dec := { s.dec with state := q, buf := { s.dec.buf with note := n, velocity := v } } } = exec i s

/-- A data byte is ignored in AwaitingStatus and is the note in AwaitingNote (R176, R177). -/
def Obligations.DataByteIsIgnoredOrCaptured : Prop :=
  ∀ (s : State) (d : BitVec 7), s.dec.evValid = false →
    (s.dec.state = .awaitingStatus → ∃ t, exec (.dataByte d) s = .next t ∧ t.dec = s.dec ∧ t.port.rx = none ∧ SameButDec s t) ∧
    (s.dec.state = .awaitingNote → ∃ t, exec (.dataByte d) s = .next t ∧
      t.dec = { s.dec with state := .awaitingVelocity, buf := { s.dec.buf with note := d.setWidth 8 } } ∧
      t.port.rx = none ∧ SameButDec s t)

/-- A data byte in AwaitingVelocity emits Off for note-on with velocity 0 and for note-off, On for note-on with velocity above 0 (R178, R179, R180). -/
def Obligations.VelocityByteEmitsItsEvent : Prop :=
  ∀ (s : State) (d : BitVec 7), s.dec.evValid = false → s.dec.state = .awaitingVelocity →
    ∃ t, exec (.dataByte d) s = .next t ∧
      t.dec.state = .awaitingNote ∧ t.dec.buf = { s.dec.buf with velocity := d.setWidth 8 } ∧ t.dec.evValid = true ∧
      (s.dec.buf.opcode = some .noteOn → d = 0#7 → t.dec.ev = .off s.dec.buf.note s.dec.buf.instrument) ∧
      (s.dec.buf.opcode = some .noteOn → d ≠ 0#7 → t.dec.ev = .on s.dec.buf.note s.dec.buf.instrument (d.setWidth 8)) ∧
      (s.dec.buf.opcode = some .noteOff → t.dec.ev = .off s.dec.buf.note s.dec.buf.instrument) ∧
      t.port.rx = none ∧ SameButDec s t

/-- While an event is pending no byte is taken and the event is not overwritten (R186). The model's own part: log entry 10. -/
def Obligations.ByteWaitsWhileAnEventWaits : Prop :=
  ∀ (s : State) (i : Instr) (q : DecState), s.dec.evValid = true → (i.byte?.isSome = true ∨ i = q.instr) → exec i s = .next s

/-- The row of the decoder's state and the row of the presented byte have the same effect (R21, R170, R184). The model's own part: log entry 6. -/
def Obligations.DecoderStateRowsTakeThePresentedByte : Prop :=
  ∀ s : State, (∀ b, s.port.rx = some b → exec s.dec.state.instr s = exec (decodeInputByte b) s) ∧
    (s.port.rx = none → exec s.dec.state.instr s = .next s)

/-- STATE_AwaitingStatus ignores a presented data byte, STATE_AwaitingNote captures it, STATE_AwaitingVelocity emits (R21, R176, R177, R178, R179, R180). The model's own part: log entry 6. -/
def Obligations.DecoderStateRowsFollowTheirOwnRules : Prop :=
  ∀ (s : State) (d : BitVec 7), s.port.rx = some (dataByteOf d) → s.dec.evValid = false →
    (∃ t, exec .stateAwaitingStatus s = .next t ∧ t.dec = { s.dec with state := .awaitingStatus } ∧
      t.port.rx = none ∧ SameButDec s t) ∧
    (∃ t, exec .stateAwaitingNote s = .next t ∧
      t.dec = { s.dec with state := .awaitingVelocity, buf := { s.dec.buf with note := d.setWidth 8 } } ∧
      t.port.rx = none ∧ SameButDec s t) ∧
    (∃ t, exec .stateAwaitingVelocity s = .next t ∧
      t.dec = ⟨.awaitingNote, { s.dec.buf with velocity := d.setWidth 8 },
        if d = 0#7 ∨ s.dec.buf.opcode ≠ some .noteOn then .off s.dec.buf.note s.dec.buf.instrument
        else .on s.dec.buf.note s.dec.buf.instrument (d.setWidth 8), true⟩ ∧
      t.port.rx = none ∧ SameButDec s t)

/-- From any state the three bytes of a recognised message end in AwaitingNote with exactly that message's event last (R185, R172, R182). -/
def Obligations.FullMessageResynchronises : Prop :=
  ∀ (p : Params) (m : DecMemory) (before : List Byte) (x : Nibble) (n v : BitVec 7),
    p.noteOnNibble.getLsbD 3 = true → p.noteOffNibble.getLsbD 3 = true → p.noteOffNibble ≠ p.noteOnNibble →
    (decRun p m (before ++ [p.noteOnNibble ++ x, n.setWidth 8, v.setWidth 8]) =
      (⟨.awaitingNote, ⟨some .noteOn, x, n.setWidth 8, v.setWidth 8⟩⟩,
       (decRun p m before).2 ++ [if v = 0#7 then .off (n.setWidth 8) x else .on (n.setWidth 8) x (v.setWidth 8)])) ∧
    (decRun p m (before ++ [p.noteOffNibble ++ x, n.setWidth 8, v.setWidth 8]) =
      (⟨.awaitingNote, ⟨some .noteOff, x, n.setWidth 8, v.setWidth 8⟩⟩,
       (decRun p m before).2 ++ [.off (n.setWidth 8) x]))

/-- After a complete message every further note and velocity pair is another message with the same opcode and instrument (R183). -/
def Obligations.ContinuationRepeatsTheMessage : Prop :=
  ∀ (p : Params) (op : Opcode) (x : Nibble) (n0 v0 : Byte) (pairs : List (BitVec 7 × BitVec 7)),
    ∃ n1 v1, decRun p ⟨.awaitingNote, ⟨some op, x, n0, v0⟩⟩ (pairs.flatMap (fun nv => [nv.1.setWidth 8, nv.2.setWidth 8])) =
      (⟨.awaitingNote, ⟨some op, x, n1, v1⟩⟩,
       pairs.map (fun nv => if op = .noteOn ∧ nv.2 ≠ 0#7 then .on (nv.1.setWidth 8) x (nv.2.setWidth 8)
         else .off (nv.1.setWidth 8) x))

/-- From reset, the events of any stream are at most half its data bytes, and each is well formed (R189). -/
def Obligations.EventsNeedTwoDataBytesEach : Prop :=
  ∀ (p : Params) (bs : List Byte),
    (decRun p .reset bs).2.length ≤ dataBytes bs / 2 ∧ ∀ e ∈ (decRun p .reset bs).2, e.emittable = true

/-- In Idle a WRITE captures its operands and goes to W0, a CHIP_RESET goes to X0; no line changes; busy rises (R120). -/
def Obligations.CommandIsAcceptedInIdle : Prop :=
  ∀ (s : State) (a d : Byte) (x : BitVec 16), (cmdReady s = true ↔ s.bus.phase = .idle) ∧ (busy s = true ↔ s.bus.phase ≠ .idle) ∧
    (s.bus.phase = .idle →
      (∃ t, exec (.write a d) s = .next t ∧ t.bus = ⟨.w0, a, d, s.bus.t0⟩ ∧ busy t = true ∧ t.port = { s.port with cmd := none } ∧
        t.line = s.line ∧ t.chip = s.chip ∧ SameMemory s t ∧ t.dec = s.dec ∧ t.env = s.env ∧ t.tick = s.tick ∧
        t.params = s.params ∧ t.moves = s.moves ∧ t.draws = s.draws) ∧
      (∃ t, exec (.chipReset x) s = .next t ∧ t.bus = { s.bus with phase := .x0 } ∧ busy t = true ∧
        t.port = { s.port with cmd := none } ∧ t.line = s.line ∧ t.chip = s.chip ∧ SameMemory s t ∧ t.dec = s.dec ∧
        t.env = s.env ∧ t.tick = s.tick ∧ t.params = s.params ∧ t.moves = s.moves ∧ t.draws = s.draws))

/-- A command while busy is refused and not stored; a presented command is held until BUS accepts it in Idle or the release of rst starts the host over (R151, R215, R275, R120). The model's own part: log entry 9, and log entry 15 for the release of rst. -/
def Obligations.CommandWhileBusyIsNeitherAcceptedNorStored : Prop :=
  (∀ (s : State) (a d : Byte) (x : BitVec 16), s.bus.phase ≠ .idle → cmdReady s = false ∧
    exec (.write a d) s = .refused .commandWhileBusy ∧ exec (.chipReset x) s = .refused .commandWhileBusy ∧
    (∀ (rest : List Move) (w : CmdWord), s.moves = .bus :: rest → s.port.cmd = some w →
      ∃ t, step s = .next t ∧ t.port.cmd = some w ∧ t.bus.addr = s.bus.addr ∧ t.bus.data = s.bus.data ∧
        step { s with port := { s.port with cmd := none } } = .next { t with port := { t.port with cmd := none } })) ∧
  (∀ (s t : State) (w : CmdWord), step s = .next t → s.port.cmd = some w → t.port.cmd = some w ∨
    (s.moves.head? = some .bus ∧ s.bus.phase = .idle ∧ s.port.rst = false ∧ t.port.cmd = none ∧ t.bus.phase ≠ .idle) ∨
    (s.moves.head? = some .rstRelease ∧ s.port.rst = true))

/-- PHASE_IDLE does nothing without a command, and with one it is that command's acceptance (R120, R28). The model's own part: log entry 5. -/
def Obligations.IdlePhaseHasNoMicroStep : Prop :=
  ∀ s : State, (s.port.cmd = none → exec .phaseIdle s = .next s) ∧
    (∀ w, s.port.cmd = some w → s.bus.phase = .idle → exec .phaseIdle s = exec (decodeCommand w) s) ∧
    (s.bus.phase ≠ .idle → exec .phaseIdle s = .next s)

/-- W0, W9, W12, W17 change write-enable only, W1, W8 address-select, W3, W11 the data lines; W1, W3, W9, W12 also sample the tick (R122, R131, R134, R139, R123, R125, R130, R133). -/
def Obligations.WriteEnableAddressSelectAndDataMicroSteps : Prop :=
  ∀ s : State,
    (∃ t, exec .w0 s = .next t ∧ t.line = { s.line with we := .l } ∧ t.bus = { s.bus with phase := .w1 } ∧ SameButLines s t) ∧
    (∃ t, exec .w9 s = .next t ∧ t.line = { s.line with we := .h } ∧ t.bus = { s.bus with phase := .w10, t0 := s.tick } ∧
      SameButLines s t) ∧
    (∃ t, exec .w12 s = .next t ∧ t.line = { s.line with we := .l } ∧ t.bus = { s.bus with phase := .w13, t0 := s.tick } ∧
      SameButLines s t) ∧
    (∃ t, exec .w17 s = .next t ∧ t.line = { s.line with we := .idle } ∧ t.bus = { s.bus with phase := .w18 } ∧ SameButLines s t) ∧
    (∃ t, exec .w1 s = .next t ∧ t.line = { s.line with a0 := .l } ∧ t.bus = { s.bus with phase := .w2, t0 := s.tick } ∧
      SameButLines s t) ∧
    (∃ t, exec .w3 s = .next t ∧ t.line = { s.line with d := s.bus.addr } ∧ t.bus = { s.bus with phase := .w4, t0 := s.tick } ∧
      SameButLines s t) ∧
    (∃ t, exec .w8 s = .next t ∧ t.line = { s.line with a0 := .h } ∧ t.bus = { s.bus with phase := .w9 } ∧ SameButLines s t) ∧
    (∃ t, exec .w11 s = .next t ∧ t.line = { s.line with d := s.bus.data } ∧ t.bus = { s.bus with phase := .w12 } ∧
      SameButLines s t)

/-- W5 and W14 assert chip-select and sample the tick, W18 releases it and finishes the command (R127, R136, R140). -/
def Obligations.ChipSelectMicroSteps : Prop :=
  ∀ s : State,
    (∃ t, exec .w5 s = .next t ∧ t.line = { s.line with cs := .asserted } ∧ t.bus = { s.bus with phase := .w6, t0 := s.tick } ∧
      (s.line.cs ≠ .asserted → ∃ w, t.chip.window = some w ∧ w.ticks = 0) ∧ SameButLines s t) ∧
    (∃ t, exec .w14 s = .next t ∧ t.line = { s.line with cs := .asserted } ∧ t.bus = { s.bus with phase := .w15, t0 := s.tick } ∧
      (s.line.cs ≠ .asserted → ∃ w, t.chip.window = some w ∧ w.ticks = 0) ∧ SameButLines s t) ∧
    (∃ t, exec .w18 s = .next t ∧ t.line = { s.line with cs := .idle } ∧
      t.bus = { s.bus with phase := .idle } ∧ busy t = false ∧ cmdReady t = true ∧ SameButBus s t ∧
      (s.line.cs ≠ .asserted → SameButLines s t))

/-- W7 deasserts chip-select, and the target then holds bus.addr as its register address (R129). -/
def Obligations.AddressWindowSetsTheLatch : Prop :=
  ∀ s : State, BusInv s → s.bus.phase = .w7 → s.line.ic = .deasserted →
    ∃ t, exec .w7 s = .next t ∧ t.line = { s.line with cs := .deasserted } ∧ t.bus = { s.bus with phase := .w8 } ∧
      t.chip.latch = s.bus.addr ∧ SameMemory s t ∧ SameButBus s t

/-- W16 deasserts chip-select, and the write has taken effect: chip.reg[bus.addr] is bus.data and no other register changes (R138, R71, R152). The model's own part: log entry 32 for an address outside R61. -/
def Obligations.DataWindowWritesTheAddressedRegister : Prop :=
  ∀ s : State, BusInv s → s.bus.phase = .w16 → s.line.ic = .deasserted →
    ∃ t, exec .w16 s = .next t ∧ t.line = { s.line with cs := .deasserted } ∧ t.bus = { s.bus with phase := .w17 } ∧
      (∀ a : Byte, chipRead t a = if a = s.bus.addr then s.bus.data else chipRead s a) ∧
      t.chip.latch = s.chip.latch ∧ SameButBus s t

/-- With line.IC asserted W7 and W16 move the lines as specified and change nothing in the target (R152, R272). -/
def Obligations.WindowsHaveNoEffectOnATargetInReset : Prop :=
  ∀ s : State, s.line.ic = .asserted →
    (∃ t, exec .w7 s = .next t ∧ t.line = { s.line with cs := .deasserted } ∧ t.bus = { s.bus with phase := .w8 } ∧
      SameButLines s t) ∧
    (∃ t, exec .w16 s = .next t ∧ t.line = { s.line with cs := .deasserted } ∧ t.bus = { s.bus with phase := .w17 } ∧
      SameButLines s t)

/-- The seven wait phases go on exactly when the modular tick difference has reached their parameter; polled in time, a wait given its ticks ends (R141, R124, R126, R128, R132, R135, R137, R148). The model's own part: log entry 11 for the turn without effect, and log entry 31 for the assumption Polled. -/
def Obligations.WaitEndsExactlyWhenItsTicksHaveElapsed : Prop :=
  (∀ s : State, s.tick < 2 ^ s.params.tickW → s.bus.t0 < 2 ^ s.params.tickW →
    ∀ e : Int, e = ((s.tick : Int) - (s.bus.t0 : Int)) % (2 ^ s.params.tickW : Int) →
    ∀ c ∈ [(Instr.w2, s.params.tSettle, Phase.w3), (.w4, s.params.tSettle, .w5), (.w6, s.params.tAddrLatch, .w7),
        (.w10, s.params.tSettle, .w11), (.w13, s.params.tSettle, .w14), (.w15, s.params.tDataLatch, .w16),
        (.x2, s.params.tResetPark, .x3)],
      ((c.2.1 : Int) ≤ e → exec c.1 s = .next { s with bus := { s.bus with phase := c.2.2 } }) ∧
      (e < (c.2.1 : Int) → exec c.1 s = .next s)) ∧
  (∀ (s : State) (others rest : List Move) (n : Nat), s.tick < 2 ^ s.params.tickW → s.bus.t0 < 2 ^ s.params.tickW →
    s.bus.phase.wait? s.params = some n → s.port.rst = false → s.moves = others ++ .bus :: rest →
    (∀ m ∈ others, m ≠ .bus ∧ m ≠ .rstAssert) → Polled s →
    ∃ t : State, (core.run (others.length + 1) s : Host.Outcome State Fault Refusal) = .next t ∧ t.moves = rest ∧
      t.bus = { s.bus with phase := if n ≤ elapsed s + others.count .tick then s.bus.phase.succ else s.bus.phase })

/-- X0 asserts the chip's reset, X1 parks the bus, X3 releases the reset and finishes (R146, R147, R149). -/
def Obligations.ChipResetMicroSteps : Prop :=
  ∀ s : State,
    (∃ t, exec .x0 s = .next t ∧ t.line = { s.line with ic := .asserted } ∧ t.bus = { s.bus with phase := .x1 } ∧ SameButBus s t) ∧
    (∃ t, exec .x1 s = .next t ∧ t.line = ⟨.idle, s.params.parkA0, .idle, s.params.parkD, s.line.ic⟩ ∧
      t.bus = { s.bus with phase := .x2, t0 := s.tick } ∧ SameButBus s t ∧ (s.line.cs ≠ .asserted → SameButLines s t)) ∧
    (∃ t, exec .x3 s = .next t ∧ t.line = { s.line with ic := .deasserted } ∧ t.bus = { s.bus with phase := .idle } ∧
      busy t = false ∧ SameButBus s t)

/-- In every step bus.phase stays, goes to its successor on BUS's turn, leaves Idle by an acceptance, or is reset (R28, R143, R120). The model's own part: log entry 7 for the second name of BUS's turn. -/
def Obligations.PhaseLeavesItsOrderOnlyByReset : Prop :=
  ∀ s t : State, step s = .next t →
    t.bus.phase = s.bus.phase ∨
    (s.busTurn ∧ s.bus.phase ≠ .idle ∧ t.bus.phase = s.bus.phase.succ ∧
      ∀ n, s.bus.phase.wait? s.params = some n → n ≤ elapsed s) ∨
    (s.moves.head? = some .bus ∧ s.bus.phase = .idle ∧
      ∃ w, s.port.cmd = some w ∧ t.bus.phase = if w.getLsbD 16 then .x0 else .w0) ∨
    (s.moves.head? = some .rstAssert ∧ t.bus.phase = .idle)

/-- Chip-select is asserted exactly in W6, W7, W15, W16; meanwhile WE is low and WE, A0, D hold still; D changes only at W3, W11, X1 (R144, R271). -/
def Obligations.ChipSelectWindowsKeepTheirLines : Prop :=
  ∀ s t : State, BusInv s → s.notResetting → step s = .next t →
    (s.line.cs = .asserted ↔ s.bus.phase = .w6 ∨ s.bus.phase = .w7 ∨ s.bus.phase = .w15 ∨ s.bus.phase = .w16) ∧
    (s.line.cs = .asserted → s.line.we = .l ∧ t.line.we = s.line.we ∧ t.line.a0 = s.line.a0 ∧ t.line.d = s.line.d) ∧
    (t.line.d ≠ s.line.d → s.line.cs ≠ .asserted ∧ (s.bus.phase = .w3 ∨ s.bus.phase = .w11 ∨ s.bus.phase = .x1))

/-- Without ticks an unfinished wait holds the bus for ever; with a fair tick source and BUS not starved every wait and every command ends (R277, R250, R141, R145). The model's own part: log entry 1 for the schedule, and log entries 25 and 31 for the assumptions TickFair and BusNotStarved. -/
def Obligations.WaitsHangWithoutTicksAndCommandsEndWithFairTicks : Prop :=
  ∀ (s : State) (sched : Nat → Move), s.tick < 2 ^ s.params.tickW → s.bus.t0 < 2 ^ s.params.tickW → (∀ k, sched k ≠ .rstAssert) →
    (∀ n, s.bus.phase.wait? s.params = some n → elapsed s < n → (∀ k, sched k ≠ .tick) →
      ∀ k, (runUnder sched s k).bus = s.bus ∧ (runUnder sched s k).line = s.line ∧ busy (runUnder sched s k) = true ∧
        (BusInv s → s.bus.phase = .w6 ∨ s.bus.phase = .w15 → (runUnder sched s k).line.cs = .asserted)) ∧
    (s.port.rst = false → TickFair sched → BusNotStarved s.params sched →
      (∀ n, s.bus.phase.wait? s.params = some n → ∃ k, sched k = .bus ∧ (∀ j, j ≤ k → (runUnder sched s j).bus = s.bus) ∧
        (runUnder sched s (k + 1)).bus = { s.bus with phase := s.bus.phase.succ }) ∧
      (∀ i, ∃ k, i ≤ k ∧ (runUnder sched s k).bus.phase = .idle))

/-- The ticks a command still owes fall by at most one in a step, and only in a step of the tick source (R145, R141, R142). -/
def Obligations.NoStepPaysMoreThanOneTick : Prop :=
  ∀ s t : State, s.tick < 2 ^ s.params.tickW → s.bus.t0 < 2 ^ s.params.tickW → s.notResetting → step s = .next t →
    s.owed ≤ t.owed + (if s.tickNext then 1 else 0)

/-- Every instruction but W16, X0 and X3 leaves every register of the target unchanged (R64, R68, R71, R39). -/
def Obligations.OnlyDataWindowsAndResetsChangeTheMemory : Prop :=
  ∀ (s t : State) (i : Instr), BusInv s → (i.format = .busPhase → i = s.bus.phase.instr) → i ≠ .w16 → i ≠ .x0 → i ≠ .x3 →
    exec i s = .next t → SameMemory s t

/-- A WRITE on the port, run on its earliest schedule, ends in Idle with the lines at rest and exactly chip.reg[address] = data (R121, R71, R145, R138, R140, R152, R282). The model's own part: log entry 32 for an address outside R61. -/
def Obligations.WriteRunsToItsEffect : Prop :=
  ∀ (s : State) (a d : Byte) (rest : List Move), BusInv s → s.params.admissible → s.bus.phase = .idle → s.port.rst = false →
    s.line.ic = .deasserted → s.port.cmd = some (writeWord a d) → s.moves = writeSchedule s.params ++ rest →
    ∃ t : State, (core.run (writeSchedule s.params).length s : Host.Outcome State Fault Refusal) = .next t ∧ t.bus.phase = .idle ∧ t.line = ⟨.idle, .h, .idle, d, .deasserted⟩ ∧
      (∀ b : Byte, chipRead t b = if b = a then d else chipRead s b) ∧ t.chip.latch = a ∧
      (observation (writeSchedule s.params).length s).writes = [(a, d)] ∧
      (observation (writeSchedule s.params).length s).events = [] ∧
      t.tick = (s.tick + (4 * s.params.tSettle + s.params.tAddrLatch + s.params.tDataLatch)) % 2 ^ s.params.tickW ∧
      t.port = { s.port with cmd := none } ∧ t.dec = s.dec ∧ t.env = s.env ∧ t.params = s.params ∧ t.moves = rest ∧ BusInv t

/-- A CHIP_RESET on the port, run on its earliest schedule, ends in Idle with the bus parked and the target released (R146, R147, R148, R149, R282). The model's own part: log entry 14. -/
def Obligations.ChipResetRunsToTheReleasedTarget : Prop :=
  ∀ (s : State) (x : BitVec 16) (rest : List Move), BusInv s → s.params.admissible → s.bus.phase = .idle → s.port.rst = false →
    s.port.cmd = some (chipResetWord x) → s.moves = chipResetSchedule s.params ++ rest →
    ∃ t : State, (core.run (chipResetSchedule s.params).length s : Host.Outcome State Fault Refusal) = .next t ∧ t.bus.phase = .idle ∧
      t.line = ⟨.idle, s.params.parkA0, .idle, s.params.parkD, .deasserted⟩ ∧
      t.bus.addr = s.bus.addr ∧ t.bus.data = s.bus.data ∧
      (observation (chipResetSchedule s.params).length s).writes = [] ∧
      t.tick = (s.tick + s.params.tResetPark) % 2 ^ s.params.tickW ∧
      t.port = { s.port with cmd := none } ∧ t.dec = s.dec ∧ t.env = s.env ∧ t.params = s.params ∧ t.moves = rest ∧ BusInv t

/-- rst during a chip-select window, X0 and X3 make the target's latch and registers any value; rst outside a window keeps them (R271, R152, R146, 93_implementation_defined.md U7). The model's own part: log entries 12, 13 and 14. -/
def Obligations.ResetsOfTheTargetLeaveItUnknown : Prop :=
  (∀ s : State,
    (∃ t, exec .x0 s = .next t ∧ t.chip.latch = Config.chipByte s.chip.draws ∧
      (∀ a : Byte, chipRead t a = Config.chipReg s.chip.draws a.toNat) ∧ s.chip.draws < t.chip.draws) ∧
    (∃ t, exec .x3 s = .next t ∧ t.chip.latch = Config.chipByte s.chip.draws ∧
      (∀ a : Byte, chipRead t a = Config.chipReg s.chip.draws a.toNat) ∧ s.chip.draws < t.chip.draws)) ∧
  ∀ (s : State) (rest : List Move), s.moves = .rstAssert :: rest → ∃ t, step s = .next t ∧
    (s.line.cs = .asserted → t.chip.latch = Config.chipByte s.chip.draws ∧
      (∀ a : Byte, chipRead t a = Config.chipReg s.chip.draws a.toNat) ∧ s.chip.draws < t.chip.draws ∧ t.chip.window = none) ∧
    (s.line.cs ≠ .asserted → t.chip.latch = s.chip.latch ∧ SameMemory s t) ∧ t.port = { s.port with rst := true } ∧ t.env = s.env

/-- The tick source's step is tick <- (tick + 1) mod 2^TICK_W, always enabled, and touches nothing else of the block (R250). -/
def Obligations.TickSourceOnlyCounts : Prop :=
  ∀ (s : State) (rest : List Move), s.moves = .tick :: rest → ∃ t, step s = .next t ∧
    t.tick = (s.tick + 1) % 2 ^ s.params.tickW ∧ t.dec = s.dec ∧ t.bus = s.bus ∧ t.line = s.line ∧ t.port = s.port ∧
    t.env = s.env ∧ t.params = s.params ∧ t.draws = s.draws ∧ t.moves = rest ∧ t.chip.latch = s.chip.latch ∧ SameMemory s t

/-- A decoder step commutes with a sequencer micro-step, and with a tick (R247, R12). -/
def Obligations.DecoderAndSequencerCommute : Prop :=
  ∀ (i : Instr) (p : Phase) (s : State), i.byte?.isSome = true →
    ∃ s1 s2 t, exec i s = .next s1 ∧ exec p.instr s = .next s2 ∧ exec p.instr s1 = .next t ∧ exec i s2 = .next t ∧
      exec i (tickSource s) = .next (tickSource s1)

/-- The target's state never influences the block: two states that differ only in the observer step to states that differ only in it (R12, R13, R31, R64). The model's own part: log entry 12. -/
def Obligations.ObserverNeverFeedsBack : Prop :=
  ∀ (s t : State) (c : Chip), step s = .next t → ∃ t', step { s with chip := c } = .next t' ∧ { t' with chip := t.chip } = t

/-- The four address rows are BUS's end of the address window that carries their address, and the target latches from a good one (R61, R99, R129, R152, R12). The model's own part: log entries 7 and 12, and 32 for a data window at an address outside R61. -/
def Obligations.TargetLatchesFromAnAddressWindow : Prop :=
  ∀ (s : State) (i : Instr) (a : Byte), i.address? = some a →
    (s.bus.phase = .w7 → s.line.d = a → exec i s = exec .w7 s ∧ ∃ t, exec i s = .next t ∧
      t.line = { s.line with cs := .deasserted } ∧ t.bus = { s.bus with phase := .w8 } ∧ SameButBus s t ∧
      (∀ w, s.line.cs = .asserted → s.line.ic = .deasserted → s.chip.window = some w →
        (s.line.we = .l → s.line.a0 = .l → w.settled = true → w.steady = true → s.params.tAddrLatch ≤ w.ticks →
          t.chip.latch = a ∧ SameMemory s t) ∧
        (s.line.we = .l → s.line.a0 = .h → w.settled = true → w.steady = true → s.params.tDataLatch ≤ w.ticks →
          t.chip.latch = s.chip.latch ∧ ∀ b : Byte, chipRead t b = if b = s.chip.latch then a else chipRead s b) ∧
        ((s.line.we ≠ .l ∨ w.settled = false ∨ w.steady = false ∨ (s.line.a0 = .l ∧ w.ticks < s.params.tAddrLatch) ∨
            (s.line.a0 = .h ∧ w.ticks < s.params.tDataLatch)) →
          t.chip.latch = Config.chipByte s.chip.draws ∧ ∀ b : Byte, chipRead t b = Config.chipReg s.chip.draws b.toNat)) ∧
      ((s.line.ic = .asserted ∨ s.line.cs ≠ .asserted) → SameButLines s t)) ∧
    ((s.line.d ≠ a ∨ s.bus.phase ≠ .w7) → exec i s = .next s)

/-- EVENT_ON and EVENT_OFF: a host that is free takes the event and calls noteOn, noteOff; one that is not lets it wait (R186, R202, R201). The model's own part: log entry 8. -/
def Obligations.HostTakesTheEvent : Prop :=
  ∀ (s : State) (x : Nibble) (n v : BitVec 7),
    (hostFree s = true ↔ s.env.acts = [] ∧ s.port.cmd = none ∧ s.bus.phase = .idle) ∧
    (hostFree s = false → exec (.eventOff x n) s = .next s ∧ exec (.eventOn x n v) s = .next s) ∧
    (hostFree s = true → ∃ t, exec (.eventOff x n) s = .next t ∧ t.dec = { s.dec with evValid := false } ∧
      t.env = (noteOff s.params (n.setWidth 8) x s.env).1 ∧ t.bus = s.bus ∧ t.line = s.line ∧ t.tick = s.tick ∧ t.port = s.port ∧
      t.chip = s.chip ∧ SameMemory s t ∧ t.params = s.params ∧ t.moves = s.moves ∧ t.draws = s.draws) ∧
    (hostFree s = true → ∃ t, exec (.eventOn x n v) s = .next t ∧ t.dec = { s.dec with evValid := false } ∧
      t.env = (noteOn s.params (n.setWidth 8) x (v.setWidth 8) s.env).1 ∧ t.bus = s.bus ∧ t.line = s.line ∧ t.tick = s.tick ∧
      t.port = s.port ∧ t.chip = s.chip ∧ SameMemory s t ∧ t.params = s.params ∧ t.moves = s.moves ∧ t.draws = s.draws)

/-- noteOn claims the first Off slot from the cursor, wrapping, between its first and second write, or is Exhausted and changes only the cursor (R207, 92_eei_decisions.md D31). The model's own part: log entries 15 (the write to 0x10+i before the one to 0x20+i, an order that R207 marks as the spec's own, N25, D31) and 16 (the data bytes). -/
def Obligations.NoteOnClaimsTheFirstFreeSlotOrIsExhausted : Prop :=
  ∀ (p : Params) (e : Env) (n : Byte) (x : Nibble) (v : Byte), e.table.length = p.nVoices → e.cursor < p.nVoices →
    (∃ k i, k < p.nVoices ∧ i = (e.cursor + k) % p.nVoices ∧ slotOff e.table i = true ∧
      (∀ j < k, slotOff e.table ((e.cursor + j) % p.nVoices) = false) ∧
      noteOn p n x v e = ({ e with
        cursor := (e.cursor + 1) % p.nVoices
        acts := e.acts ++
          [.command (writeWord (BitVec.ofNat 8 (0x30 + i)) (Config.instVol x v)),
           .claim i n x,
           .command (writeWord (BitVec.ofNat 8 (0x10 + i)) (Config.freqReg n (frequencyCode p n) (BitVec.ofNat 3 (octave n)))),
           .command (writeWord (BitVec.ofNat 8 (0x20 + i))
             (Config.octGateReg n (frequencyCode p n) (BitVec.ofNat 3 (octave n)) true))] }, .slot i) ∧
      (e.acts = [] → (noteOn p n x v e).1.settle.table = e.table.set i ⟨n, x, true⟩)) ∨
    ((∀ i < p.nVoices, slotOff e.table i = false) ∧
      noteOn p n x v e = ({ e with cursor := (e.cursor + 1) % p.nVoices }, .exhausted))

/-- noteOff releases the lowest slot that sounds exactly this note and instrument after one gate-off write, or is NotFound and changes nothing (R208, 93_implementation_defined.md U9, 92_eei_decisions.md D31). The model's own part: log entries 15 (the scan from 0 and the release of the first match alone, which R208 marks as the spec's choice, U9, D31) and 16 (the register of the gate, and the data byte). -/
def Obligations.NoteOffReleasesTheFirstMatchOrIsNotFound : Prop :=
  ∀ (p : Params) (e : Env) (n : Byte) (x : Nibble),
    (∃ i : Nat, e.table[i]? = some ⟨n, x, true⟩ ∧ (∀ j < i, e.table[j]? ≠ some ⟨n, x, true⟩) ∧
      noteOff p n x e = ({ e with
        acts := e.acts ++
          [.command (writeWord (match p.gateReg with | .freq => BitVec.ofNat 8 (0x10 + i) | .octGate => BitVec.ofNat 8 (0x20 + i))
            (Config.gateOffReg n x true)), .release i] }, .ok) ∧
      (e.acts = [] → (noteOff p n x e).1.settle.table = e.table.set i ⟨n, x, false⟩)) ∨
    ((∀ i : Nat, e.table[i]? ≠ some ⟨n, x, true⟩) ∧ noteOff p n x e = (e, .notFound))

/-- killAll writes gate-off to every slot in index order and then makes the table all Off; any noteOff after it is NotFound (R209, R205, R212). The model's own part: log entries 15 (the index order, which R209 and D31 give as the spec's own choice, and that a slot that killAll makes Off keeps its note and instrument) and 16 (the data byte of each gate-off write). -/
def Obligations.KillAllSilencesEveryVoice : Prop :=
  ∀ (p : Params) (e : Env),
    (∃ ws : List CmdWord, killAll p e = { e with acts := e.acts ++ ws.map .command ++ [.allOff] } ∧ ws.length = e.table.length ∧
      ∀ (i : Nat) (v : VoiceSlot), e.table[i]? = some v →
        ws[i]? = some (writeWord (gateAddr p i) (Config.gateOffReg v.note v.instrument v.on))) ∧
    (∀ v ∈ (killAll p e).settle.table, v.on = false) ∧
    (e.acts = [] → (killAll p e).settle.table = e.table.map (fun v => ⟨v.note, v.instrument, false⟩)) ∧
    (∀ n x, (noteOff p n x (killAll p e).settle).2 = .notFound)

/-- From an all-Off table, up to N noteOn calls take distinct slots in cursor order, and the next after N is Exhausted (R216, R206, R207). -/
def Obligations.SequentialNoteOnsFillTheTableRoundRobin : Prop :=
  ∀ (p : Params) (e : Env) (calls : List (Byte × Nibble × Byte)), 1 ≤ p.nVoices → e.table.length = p.nVoices →
    e.acts = [] → e.cursor < p.nVoices → (∀ i < p.nVoices, slotOff e.table i = true) → calls.length ≤ p.nVoices →
    (noteOnAll p e calls).2 = (List.range calls.length).map (fun k => .slot ((e.cursor + k) % p.nVoices)) ∧
    (calls.length = p.nVoices → ∀ n x v, (noteOn p n x v (noteOnAll p e calls).1).2 = .exhausted ∧
      (noteOn p n x v (noteOnAll p e calls).1).1.table = (noteOnAll p e calls).1.table)

/-- frequencyCode has period 12, octave is note / 12 clamped to 7 (R203, R204). -/
def Obligations.NoteMapperIsPeriodicAndClamped : Prop :=
  ∀ (p : Params) (m n : Byte),
    (m.toNat = n.toNat + 12 → frequencyCode p m = frequencyCode p n) ∧
    p.freqTable[n.toNat % 12]? = some (frequencyCode p n) ∧
    octave n ≤ 7 ∧ (95 < n.toNat → octave n = 7) ∧
    (n.toNat ≤ 95 → 12 * octave n ≤ n.toNat ∧ n.toNat < 12 * octave n + 12)

/-- An iteration of the control loop first completes the event in hand, then handles the next, then switches the mode, and only then polls (R201, R202, R207, R210, R213, R215, R272, R73). The model's own part: log entries 8 (the event is taken when the host is free, and dec.ev keeps its value), 15, 17, 18 and 33. -/
def Obligations.ControlLoopRunsEachEventToCompletion : Prop :=
  ∀ (s : State) (rest : List Move), s.moves = .loop :: rest →
    ((s.port.rst = true ∨ s.bus.phase ≠ .idle ∨ s.port.cmd.isSome = true) → step s = .next { s with moves := rest }) ∧
    (s.port.rst = false → s.bus.phase = .idle → s.port.cmd = none →
      (∀ w acts, s.env.acts = .command w :: acts →
        (s.env.owesChipReset = true → w.getLsbD 16 = false →
          step s = .next { s with
            moves := rest, port := { s.port with cmd := some (chipResetWord 0#16) }, env := { s.env with owesChipReset := false } }) ∧
        ((s.env.owesChipReset = false ∨ w.getLsbD 16 = true) →
          step s = .next { s with
            moves := rest, port := { s.port with cmd := some w }, env := { s.env with acts := acts, owesChipReset := false } })) ∧
      (∀ a acts, s.env.acts = a :: acts → (∀ w, a ≠ .command w) →
        step s = .next { s with moves := rest, env := { s.env with table := a.onTable s.env.table, acts := acts } }) ∧
      (s.env.acts = [] →
        (∀ e es, s.env.keyEvents = e :: es →
          step s = .next { s with moves := rest, env := allocate s.params e { s.env with keyEvents := es } }) ∧
        (s.env.keyEvents = [] →
          (s.dec.evValid = true → step s = .next { s with
            moves := rest, dec := { s.dec with evValid := false }, env := allocate s.params s.dec.ev s.env }) ∧
          (s.dec.evValid = false →
            (s.port.rx.isSome = true → step s = .next { s with moves := rest }) ∧
            (s.port.rx = none →
              (s.env.mode ≠ s.env.modeSignal →
                step s = .next { s with moves := rest, env := { killAll s.params s.env with mode := s.env.modeSignal } }) ∧
              (s.env.mode = s.env.modeSignal →
                (s.env.mode = .serial → s.env.uart = [] → step s = .next { s with moves := rest }) ∧
                (∀ b bs, s.env.mode = .serial → s.env.uart = b :: bs → step s = .next { s with
                  moves := rest, port := { s.port with rx := some b }, env := { s.env with uart := bs } }) ∧
                (s.env.mode = .matrix → step s = .next { s with moves := rest, env := { s.env with
                  keyEvents := keyDiff s.env.keysNow s.env.keysPrev, keysPrev := s.env.keysNow } }))))))) ∧
    (∀ ev, ev ∈ keyDiff s.env.keysNow s.env.keysPrev ↔ ∃ k b, s.env.keysNow[k]? = some b ∧ b ≠ s.env.keysPrev.getD k false ∧
      ev = if b then .on (Config.keyNote k) (Config.keyInstrument k) (Config.keyVelocity k)
        else .off (Config.keyNote k) (Config.keyInstrument k))

/-- The electrical level of every line is the table's function of its logical state and the polarity parameters (R9). -/
def Obligations.ElectricalLevelsFollowTheParameters : Prop :=
  ∀ s : State,
    ((outputs s).busWe = match s.line.we, s.params.idleDrive with
      | .l, _ => .low | .h, _ => .high | .idle, .h => .high | .idle, .z => .z) ∧
    ((outputs s).busCs = match s.line.cs, s.params.csActive, s.params.idleDrive with
      | .asserted, .l, _ => .low | .asserted, .h, _ => .high | .deasserted, .l, _ => .high | .deasserted, .h, _ => .low
      | .idle, .l, .h => .high | .idle, .h, .h => .low | .idle, _, .z => .z) ∧
    ((outputs s).busA0 = match s.line.a0 with | .l => .low | .h => .high) ∧
    ((outputs s).busIc = match s.line.ic, s.params.icActive with
      | .asserted, .l => .low | .asserted, .h => .high | .deasserted, .l => .high | .deasserted, .h => .low) ∧
    (∀ i, (outputs s).busD.getLsbD i = s.line.d.getLsbD i)

/-- The arithmetic of R142: n = ceil(d / T_TICK) + 1 is the least n with (n - 1) * T_TICK at least d (R142). The model's own part: log entry 25: ticks are modelled and real time is not. -/
def Obligations.TicksForMeetsTheArithmeticOfR142 : Prop :=
  ∀ d tTick : Nat, 0 < tTick → d ≤ (ticksFor d tTick - 1) * tTick ∧ (0 < d → (ticksFor d tTick - 2) * tTick < d)
end

