-- ==== Sys2Proof/Laws/State.lean ====
section
/-! SUPPORT. For each update of the state that the model makes, what each field of the result is: true by unfolding that one
update, so that no later proof unfolds a record update. -/

namespace Sys2Proof.Machine

-- Many small proofs in a row: one after the other they take less memory than side by side.
set_option Elab.async false

/-! ## toPhase -/

@[simp] theorem toPhase_params (p : Phase) (s : State) : (toPhase p s).params = s.params := rfl
@[simp] theorem toPhase_dec (p : Phase) (s : State) : (toPhase p s).dec = s.dec := rfl
@[simp] theorem toPhase_bus (p : Phase) (s : State) : (toPhase p s).bus = { s.bus with phase := p } := rfl
@[simp] theorem toPhase_line (p : Phase) (s : State) : (toPhase p s).line = s.line := rfl
@[simp] theorem toPhase_tick (p : Phase) (s : State) : (toPhase p s).tick = s.tick := rfl
@[simp] theorem toPhase_port (p : Phase) (s : State) : (toPhase p s).port = s.port := rfl
@[simp] theorem toPhase_chip (p : Phase) (s : State) : (toPhase p s).chip = s.chip := rfl
@[simp] theorem toPhase_env (p : Phase) (s : State) : (toPhase p s).env = s.env := rfl
@[simp] theorem toPhase_moves (p : Phase) (s : State) : (toPhase p s).moves = s.moves := rfl
@[simp] theorem toPhase_draws (p : Phase) (s : State) : (toPhase p s).draws = s.draws := rfl

/-! ## enterWait -/

@[simp] theorem enterWait_params (p : Phase) (s : State) : (enterWait p s).params = s.params := rfl
@[simp] theorem enterWait_dec (p : Phase) (s : State) : (enterWait p s).dec = s.dec := rfl
@[simp] theorem enterWait_bus (p : Phase) (s : State) : (enterWait p s).bus = { s.bus with t0 := s.tick, phase := p } := rfl
@[simp] theorem enterWait_line (p : Phase) (s : State) : (enterWait p s).line = s.line := rfl
@[simp] theorem enterWait_tick (p : Phase) (s : State) : (enterWait p s).tick = s.tick := rfl
@[simp] theorem enterWait_port (p : Phase) (s : State) : (enterWait p s).port = s.port := rfl
@[simp] theorem enterWait_chip (p : Phase) (s : State) : (enterWait p s).chip = s.chip := rfl
@[simp] theorem enterWait_env (p : Phase) (s : State) : (enterWait p s).env = s.env := rfl
@[simp] theorem enterWait_moves (p : Phase) (s : State) : (enterWait p s).moves = s.moves := rfl
@[simp] theorem enterWait_draws (p : Phase) (s : State) : (enterWait p s).draws = s.draws := rfl

/-! ## drive -/

@[simp] theorem drive_params (l : Lines) (s : State) : (drive l s).params = s.params := rfl
@[simp] theorem drive_dec (l : Lines) (s : State) : (drive l s).dec = s.dec := rfl
@[simp] theorem drive_bus (l : Lines) (s : State) : (drive l s).bus = s.bus := rfl
@[simp] theorem drive_line (l : Lines) (s : State) : (drive l s).line = l := rfl
@[simp] theorem drive_tick (l : Lines) (s : State) : (drive l s).tick = s.tick := rfl
@[simp] theorem drive_port (l : Lines) (s : State) : (drive l s).port = s.port := rfl
@[simp] theorem drive_chip (l : Lines) (s : State) : (drive l s).chip = s.chip.observe s.params s.line l := rfl
@[simp] theorem drive_env (l : Lines) (s : State) : (drive l s).env = s.env := rfl
@[simp] theorem drive_moves (l : Lines) (s : State) : (drive l s).moves = s.moves := rfl
@[simp] theorem drive_draws (l : Lines) (s : State) : (drive l s).draws = s.draws := rfl

/-! ## tickSource -/

@[simp] theorem tickSource_params (s : State) : (tickSource s).params = s.params := rfl
@[simp] theorem tickSource_dec (s : State) : (tickSource s).dec = s.dec := rfl
@[simp] theorem tickSource_bus (s : State) : (tickSource s).bus = s.bus := rfl
@[simp] theorem tickSource_line (s : State) : (tickSource s).line = s.line := rfl
@[simp] theorem tickSource_tick (s : State) : (tickSource s).tick = (s.tick + 1) % 2 ^ s.params.tickW := rfl
@[simp] theorem tickSource_port (s : State) : (tickSource s).port = s.port := rfl
@[simp] theorem tickSource_chip (s : State) : (tickSource s).chip = s.chip.tick := rfl
@[simp] theorem tickSource_env (s : State) : (tickSource s).env = s.env := rfl
@[simp] theorem tickSource_moves (s : State) : (tickSource s).moves = s.moves := rfl
@[simp] theorem tickSource_draws (s : State) : (tickSource s).draws = s.draws := rfl

/-! ## chipForgets -/

@[simp] theorem chipForgets_params (s : State) : (chipForgets s).params = s.params := rfl
@[simp] theorem chipForgets_dec (s : State) : (chipForgets s).dec = s.dec := rfl
@[simp] theorem chipForgets_bus (s : State) : (chipForgets s).bus = s.bus := rfl
@[simp] theorem chipForgets_line (s : State) : (chipForgets s).line = s.line := rfl
@[simp] theorem chipForgets_tick (s : State) : (chipForgets s).tick = s.tick := rfl
@[simp] theorem chipForgets_port (s : State) : (chipForgets s).port = s.port := rfl
@[simp] theorem chipForgets_chip (s : State) : (chipForgets s).chip = s.chip.anyValue := rfl
@[simp] theorem chipForgets_env (s : State) : (chipForgets s).env = s.env := rfl
@[simp] theorem chipForgets_moves (s : State) : (chipForgets s).moves = s.moves := rfl
@[simp] theorem chipForgets_draws (s : State) : (chipForgets s).draws = s.draws := rfl

/-! ## hostTake -/

@[simp] theorem hostTake_params (e : NoteEvent) (s : State) : (hostTake e s).params = s.params := rfl
@[simp] theorem hostTake_dec (e : NoteEvent) (s : State) : (hostTake e s).dec = { s.dec with evValid := false } := rfl
@[simp] theorem hostTake_bus (e : NoteEvent) (s : State) : (hostTake e s).bus = s.bus := rfl
@[simp] theorem hostTake_line (e : NoteEvent) (s : State) : (hostTake e s).line = s.line := rfl
@[simp] theorem hostTake_tick (e : NoteEvent) (s : State) : (hostTake e s).tick = s.tick := rfl
@[simp] theorem hostTake_port (e : NoteEvent) (s : State) : (hostTake e s).port = s.port := rfl
@[simp] theorem hostTake_chip (e : NoteEvent) (s : State) : (hostTake e s).chip = s.chip := rfl
@[simp] theorem hostTake_env (e : NoteEvent) (s : State) : (hostTake e s).env = allocate s.params e s.env := rfl
@[simp] theorem hostTake_moves (e : NoteEvent) (s : State) : (hostTake e s).moves = s.moves := rfl
@[simp] theorem hostTake_draws (e : NoteEvent) (s : State) : (hostTake e s).draws = s.draws := rfl

/-! ## deselectAddress -/

@[simp] theorem deselectAddress_params (s : State) : (deselectAddress s).params = s.params := rfl
@[simp] theorem deselectAddress_dec (s : State) : (deselectAddress s).dec = s.dec := rfl
@[simp] theorem deselectAddress_bus (s : State) : (deselectAddress s).bus = { s.bus with phase := .w8 } := rfl
@[simp] theorem deselectAddress_line (s : State) : (deselectAddress s).line = { s.line with cs := .deasserted } := rfl
@[simp] theorem deselectAddress_tick (s : State) : (deselectAddress s).tick = s.tick := rfl
@[simp] theorem deselectAddress_port (s : State) : (deselectAddress s).port = s.port := rfl
@[simp] theorem deselectAddress_chip (s : State) : (deselectAddress s).chip = s.chip.observe s.params s.line { s.line with cs := .deasserted } := rfl
@[simp] theorem deselectAddress_env (s : State) : (deselectAddress s).env = s.env := rfl
@[simp] theorem deselectAddress_moves (s : State) : (deselectAddress s).moves = s.moves := rfl
@[simp] theorem deselectAddress_draws (s : State) : (deselectAddress s).draws = s.draws := rfl

/-! ## present -/

@[simp] theorem present_params (w : CmdWord) (acts : List HostAct) (s : State) : (present w acts s).params = s.params := rfl
@[simp] theorem present_dec (w : CmdWord) (acts : List HostAct) (s : State) : (present w acts s).dec = s.dec := rfl
@[simp] theorem present_bus (w : CmdWord) (acts : List HostAct) (s : State) : (present w acts s).bus = s.bus := rfl
@[simp] theorem present_line (w : CmdWord) (acts : List HostAct) (s : State) : (present w acts s).line = s.line := rfl
@[simp] theorem present_tick (w : CmdWord) (acts : List HostAct) (s : State) : (present w acts s).tick = s.tick := rfl
@[simp] theorem present_port (w : CmdWord) (acts : List HostAct) (s : State) : (present w acts s).port = { s.port with cmd := some w } := rfl
@[simp] theorem present_chip (w : CmdWord) (acts : List HostAct) (s : State) : (present w acts s).chip = s.chip := rfl
@[simp] theorem present_env (w : CmdWord) (acts : List HostAct) (s : State) : (present w acts s).env = { s.env with acts := acts, owesChipReset := false } := rfl
@[simp] theorem present_moves (w : CmdWord) (acts : List HostAct) (s : State) : (present w acts s).moves = s.moves := rfl
@[simp] theorem present_draws (w : CmdWord) (acts : List HostAct) (s : State) : (present w acts s).draws = s.draws := rfl

/-! ## hostInit -/

@[simp] theorem hostInit_params (s : State) : (hostInit s).params = s.params := rfl
@[simp] theorem hostInit_dec (s : State) : (hostInit s).dec = s.dec := rfl
@[simp] theorem hostInit_bus (s : State) : (hostInit s).bus = s.bus := rfl
@[simp] theorem hostInit_line (s : State) : (hostInit s).line = s.line := rfl
@[simp] theorem hostInit_tick (s : State) : (hostInit s).tick = s.tick := rfl
@[simp] theorem hostInit_port (s : State) : (hostInit s).port = { s.port with cmd := none } := rfl
@[simp] theorem hostInit_chip (s : State) : (hostInit s).chip = s.chip := rfl
@[simp] theorem hostInit_env (s : State) : (hostInit s).env = { s.env with
      table := List.replicate s.params.nVoices { note := 0#8, instrument := 0#4, on := false }
      cursor := 0
      keyEvents := []
      acts := [.command (chipResetWord 0#16)]
      owesChipReset := true } := rfl
@[simp] theorem hostInit_moves (s : State) : (hostInit s).moves = s.moves := rfl
@[simp] theorem hostInit_draws (s : State) : (hostInit s).draws = s.draws := rfl

/-! ## blockReset -/

@[simp] theorem blockReset_params (s : State) : (blockReset s).params = s.params := rfl
@[simp] theorem blockReset_dec (s : State) : (blockReset s).dec = Dec.atReset s.draws := rfl
@[simp] theorem blockReset_bus (s : State) : (blockReset s).bus = Bus.atReset s.params s.draws := rfl
@[simp] theorem blockReset_line (s : State) : (blockReset s).line = Lines.atReset s.params := rfl
@[simp] theorem blockReset_tick (s : State) : (blockReset s).tick = tickAtReset s.params s.draws := rfl
@[simp] theorem blockReset_port (s : State) : (blockReset s).port = s.port := rfl
@[simp] theorem blockReset_chip (s : State) : (blockReset s).chip = s.chip.cutByReset s.line (Lines.atReset s.params) := rfl
@[simp] theorem blockReset_env (s : State) : (blockReset s).env = s.env := rfl
@[simp] theorem blockReset_moves (s : State) : (blockReset s).moves = s.moves := rfl
@[simp] theorem blockReset_draws (s : State) : (blockReset s).draws = s.draws + 1 := rfl

/-! ## waitTicks -/

@[simp] theorem waitTicks_params (n : Nat) (p : Phase) (s : State) : (waitTicks n p s).params = s.params := by
  unfold waitTicks; split <;> rfl
@[simp] theorem waitTicks_dec (n : Nat) (p : Phase) (s : State) : (waitTicks n p s).dec = s.dec := by
  unfold waitTicks; split <;> rfl
@[simp] theorem waitTicks_line (n : Nat) (p : Phase) (s : State) : (waitTicks n p s).line = s.line := by
  unfold waitTicks; split <;> rfl
@[simp] theorem waitTicks_tick (n : Nat) (p : Phase) (s : State) : (waitTicks n p s).tick = s.tick := by
  unfold waitTicks; split <;> rfl
@[simp] theorem waitTicks_port (n : Nat) (p : Phase) (s : State) : (waitTicks n p s).port = s.port := by
  unfold waitTicks; split <;> rfl
@[simp] theorem waitTicks_chip (n : Nat) (p : Phase) (s : State) : (waitTicks n p s).chip = s.chip := by
  unfold waitTicks; split <;> rfl
@[simp] theorem waitTicks_env (n : Nat) (p : Phase) (s : State) : (waitTicks n p s).env = s.env := by
  unfold waitTicks; split <;> rfl
@[simp] theorem waitTicks_moves (n : Nat) (p : Phase) (s : State) : (waitTicks n p s).moves = s.moves := by
  unfold waitTicks; split <;> rfl
@[simp] theorem waitTicks_draws (n : Nat) (p : Phase) (s : State) : (waitTicks n p s).draws = s.draws := by
  unfold waitTicks; split <;> rfl

/-! ## acceptCommand -/

@[simp] theorem acceptCommand_params (w : CmdWord) (s : State) : (acceptCommand w s).params = s.params := by
  unfold acceptCommand; split <;> rfl
@[simp] theorem acceptCommand_dec (w : CmdWord) (s : State) : (acceptCommand w s).dec = s.dec := by
  unfold acceptCommand; split <;> rfl
@[simp] theorem acceptCommand_line (w : CmdWord) (s : State) : (acceptCommand w s).line = s.line := by
  unfold acceptCommand; split <;> rfl
@[simp] theorem acceptCommand_tick (w : CmdWord) (s : State) : (acceptCommand w s).tick = s.tick := by
  unfold acceptCommand; split <;> rfl
@[simp] theorem acceptCommand_chip (w : CmdWord) (s : State) : (acceptCommand w s).chip = s.chip := by
  unfold acceptCommand; split <;> rfl
@[simp] theorem acceptCommand_env (w : CmdWord) (s : State) : (acceptCommand w s).env = s.env := by
  unfold acceptCommand; split <;> rfl
@[simp] theorem acceptCommand_moves (w : CmdWord) (s : State) : (acceptCommand w s).moves = s.moves := by
  unfold acceptCommand; split <;> rfl
@[simp] theorem acceptCommand_draws (w : CmdWord) (s : State) : (acceptCommand w s).draws = s.draws := by
  unfold acceptCommand; split <;> rfl

/-! ## takeByteFrom -/

@[simp] theorem takeByteFrom_params (q : DecState) (b : Byte) (s : State) : (takeByteFrom q b s).params = s.params := by
  unfold takeByteFrom; split <;> rfl
@[simp] theorem takeByteFrom_bus (q : DecState) (b : Byte) (s : State) : (takeByteFrom q b s).bus = s.bus := by
  unfold takeByteFrom; split <;> rfl
@[simp] theorem takeByteFrom_line (q : DecState) (b : Byte) (s : State) : (takeByteFrom q b s).line = s.line := by
  unfold takeByteFrom; split <;> rfl
@[simp] theorem takeByteFrom_tick (q : DecState) (b : Byte) (s : State) : (takeByteFrom q b s).tick = s.tick := by
  unfold takeByteFrom; split <;> rfl
@[simp] theorem takeByteFrom_chip (q : DecState) (b : Byte) (s : State) : (takeByteFrom q b s).chip = s.chip := by
  unfold takeByteFrom; split <;> rfl
@[simp] theorem takeByteFrom_env (q : DecState) (b : Byte) (s : State) : (takeByteFrom q b s).env = s.env := by
  unfold takeByteFrom; split <;> rfl
@[simp] theorem takeByteFrom_moves (q : DecState) (b : Byte) (s : State) : (takeByteFrom q b s).moves = s.moves := by
  unfold takeByteFrom; split <;> rfl
@[simp] theorem takeByteFrom_draws (q : DecState) (b : Byte) (s : State) : (takeByteFrom q b s).draws = s.draws := by
  unfold takeByteFrom; split <;> rfl

/-! ## takeByte -/

@[simp] theorem takeByte_params (b : Byte) (s : State) : (takeByte b s).params = s.params := by
  simp [takeByte]
@[simp] theorem takeByte_bus (b : Byte) (s : State) : (takeByte b s).bus = s.bus := by
  simp [takeByte]
@[simp] theorem takeByte_line (b : Byte) (s : State) : (takeByte b s).line = s.line := by
  simp [takeByte]
@[simp] theorem takeByte_tick (b : Byte) (s : State) : (takeByte b s).tick = s.tick := by
  simp [takeByte]
@[simp] theorem takeByte_chip (b : Byte) (s : State) : (takeByte b s).chip = s.chip := by
  simp [takeByte]
@[simp] theorem takeByte_env (b : Byte) (s : State) : (takeByte b s).env = s.env := by
  simp [takeByte]
@[simp] theorem takeByte_moves (b : Byte) (s : State) : (takeByte b s).moves = s.moves := by
  simp [takeByte]
@[simp] theorem takeByte_draws (b : Byte) (s : State) : (takeByte b s).draws = s.draws := by
  simp [takeByte]

/-! ## decTurnFrom -/

@[simp] theorem decTurnFrom_params (q : DecState) (s : State) : (decTurnFrom q s).params = s.params := by
  unfold decTurnFrom; split <;> simp
@[simp] theorem decTurnFrom_bus (q : DecState) (s : State) : (decTurnFrom q s).bus = s.bus := by
  unfold decTurnFrom; split <;> simp
@[simp] theorem decTurnFrom_line (q : DecState) (s : State) : (decTurnFrom q s).line = s.line := by
  unfold decTurnFrom; split <;> simp
@[simp] theorem decTurnFrom_tick (q : DecState) (s : State) : (decTurnFrom q s).tick = s.tick := by
  unfold decTurnFrom; split <;> simp
@[simp] theorem decTurnFrom_chip (q : DecState) (s : State) : (decTurnFrom q s).chip = s.chip := by
  unfold decTurnFrom; split <;> simp
@[simp] theorem decTurnFrom_env (q : DecState) (s : State) : (decTurnFrom q s).env = s.env := by
  unfold decTurnFrom; split <;> simp
@[simp] theorem decTurnFrom_moves (q : DecState) (s : State) : (decTurnFrom q s).moves = s.moves := by
  unfold decTurnFrom; split <;> simp
@[simp] theorem decTurnFrom_draws (q : DecState) (s : State) : (decTurnFrom q s).draws = s.draws := by
  unfold decTurnFrom; split <;> simp

/-! ## latchRow -/

@[simp] theorem latchRow_params (a : Byte) (s : State) : (latchRow a s).params = s.params := by
  unfold latchRow; split <;> rfl
@[simp] theorem latchRow_dec (a : Byte) (s : State) : (latchRow a s).dec = s.dec := by
  unfold latchRow; split <;> rfl
@[simp] theorem latchRow_tick (a : Byte) (s : State) : (latchRow a s).tick = s.tick := by
  unfold latchRow; split <;> rfl
@[simp] theorem latchRow_port (a : Byte) (s : State) : (latchRow a s).port = s.port := by
  unfold latchRow; split <;> rfl
@[simp] theorem latchRow_env (a : Byte) (s : State) : (latchRow a s).env = s.env := by
  unfold latchRow; split <;> rfl
@[simp] theorem latchRow_moves (a : Byte) (s : State) : (latchRow a s).moves = s.moves := by
  unfold latchRow; split <;> rfl
@[simp] theorem latchRow_draws (a : Byte) (s : State) : (latchRow a s).draws = s.draws := by
  unfold latchRow; split <;> rfl

/-! ## takeWhenFree -/

@[simp] theorem takeWhenFree_params (e : NoteEvent) (s : State) : (takeWhenFree e s).params = s.params := by
  unfold takeWhenFree; split <;> rfl
@[simp] theorem takeWhenFree_bus (e : NoteEvent) (s : State) : (takeWhenFree e s).bus = s.bus := by
  unfold takeWhenFree; split <;> rfl
@[simp] theorem takeWhenFree_line (e : NoteEvent) (s : State) : (takeWhenFree e s).line = s.line := by
  unfold takeWhenFree; split <;> rfl
@[simp] theorem takeWhenFree_tick (e : NoteEvent) (s : State) : (takeWhenFree e s).tick = s.tick := by
  unfold takeWhenFree; split <;> rfl
@[simp] theorem takeWhenFree_port (e : NoteEvent) (s : State) : (takeWhenFree e s).port = s.port := by
  unfold takeWhenFree; split <;> rfl
@[simp] theorem takeWhenFree_chip (e : NoteEvent) (s : State) : (takeWhenFree e s).chip = s.chip := by
  unfold takeWhenFree; split <;> rfl
@[simp] theorem takeWhenFree_moves (e : NoteEvent) (s : State) : (takeWhenFree e s).moves = s.moves := by
  unfold takeWhenFree; split <;> rfl
@[simp] theorem takeWhenFree_draws (e : NoteEvent) (s : State) : (takeWhenFree e s).draws = s.draws := by
  unfold takeWhenFree; split <;> rfl

/-! ## takePending -/

@[simp] theorem takePending_params (s : State) : (takePending s).params = s.params := by
  unfold takePending; split <;> simp
@[simp] theorem takePending_bus (s : State) : (takePending s).bus = s.bus := by
  unfold takePending; split <;> simp
@[simp] theorem takePending_line (s : State) : (takePending s).line = s.line := by
  unfold takePending; split <;> simp
@[simp] theorem takePending_tick (s : State) : (takePending s).tick = s.tick := by
  unfold takePending; split <;> simp
@[simp] theorem takePending_port (s : State) : (takePending s).port = s.port := by
  unfold takePending; split <;> simp
@[simp] theorem takePending_chip (s : State) : (takePending s).chip = s.chip := by
  unfold takePending; split <;> simp
@[simp] theorem takePending_moves (s : State) : (takePending s).moves = s.moves := by
  unfold takePending; split <;> simp
@[simp] theorem takePending_draws (s : State) : (takePending s).draws = s.draws := by
  unfold takePending; split <;> simp

/-! ## handByte -/

@[simp] theorem handByte_params (s : State) : (handByte s).params = s.params := by
  unfold handByte; split
  · split <;> rfl
  · rfl
@[simp] theorem handByte_dec (s : State) : (handByte s).dec = s.dec := by
  unfold handByte; split
  · split <;> rfl
  · rfl
@[simp] theorem handByte_bus (s : State) : (handByte s).bus = s.bus := by
  unfold handByte; split
  · split <;> rfl
  · rfl
@[simp] theorem handByte_line (s : State) : (handByte s).line = s.line := by
  unfold handByte; split
  · split <;> rfl
  · rfl
@[simp] theorem handByte_tick (s : State) : (handByte s).tick = s.tick := by
  unfold handByte; split
  · split <;> rfl
  · rfl
@[simp] theorem handByte_chip (s : State) : (handByte s).chip = s.chip := by
  unfold handByte; split
  · split <;> rfl
  · rfl
@[simp] theorem handByte_moves (s : State) : (handByte s).moves = s.moves := by
  unfold handByte; split
  · split <;> rfl
  · rfl
@[simp] theorem handByte_draws (s : State) : (handByte s).draws = s.draws := by
  unfold handByte; split
  · split <;> rfl
  · rfl

/-! ## doNextAct -/

@[simp] theorem doNextAct_params (s : State) : (doNextAct s).params = s.params := by
  unfold doNextAct; split
  · split <;> rfl
  · split <;> rfl
  · rfl
  · rfl
@[simp] theorem doNextAct_dec (s : State) : (doNextAct s).dec = s.dec := by
  unfold doNextAct; split
  · split <;> rfl
  · split <;> rfl
  · rfl
  · rfl
@[simp] theorem doNextAct_bus (s : State) : (doNextAct s).bus = s.bus := by
  unfold doNextAct; split
  · split <;> rfl
  · split <;> rfl
  · rfl
  · rfl
@[simp] theorem doNextAct_line (s : State) : (doNextAct s).line = s.line := by
  unfold doNextAct; split
  · split <;> rfl
  · split <;> rfl
  · rfl
  · rfl
@[simp] theorem doNextAct_tick (s : State) : (doNextAct s).tick = s.tick := by
  unfold doNextAct; split
  · split <;> rfl
  · split <;> rfl
  · rfl
  · rfl
@[simp] theorem doNextAct_chip (s : State) : (doNextAct s).chip = s.chip := by
  unfold doNextAct; split
  · split <;> rfl
  · split <;> rfl
  · rfl
  · rfl
@[simp] theorem doNextAct_moves (s : State) : (doNextAct s).moves = s.moves := by
  unfold doNextAct; split
  · split <;> rfl
  · split <;> rfl
  · rfl
  · rfl
@[simp] theorem doNextAct_draws (s : State) : (doNextAct s).draws = s.draws := by
  unfold doNextAct; split
  · split <;> rfl
  · split <;> rfl
  · rfl
  · rfl

/-! ## nextAct -/

@[simp] theorem nextAct_params (s : State) : (nextAct s).params = s.params := by
  unfold nextAct; split <;> simp
@[simp] theorem nextAct_dec (s : State) : (nextAct s).dec = s.dec := by
  unfold nextAct; split <;> simp
@[simp] theorem nextAct_bus (s : State) : (nextAct s).bus = s.bus := by
  unfold nextAct; split <;> simp
@[simp] theorem nextAct_line (s : State) : (nextAct s).line = s.line := by
  unfold nextAct; split <;> simp
@[simp] theorem nextAct_tick (s : State) : (nextAct s).tick = s.tick := by
  unfold nextAct; split <;> simp
@[simp] theorem nextAct_chip (s : State) : (nextAct s).chip = s.chip := by
  unfold nextAct; split <;> simp
@[simp] theorem nextAct_moves (s : State) : (nextAct s).moves = s.moves := by
  unfold nextAct; split <;> simp
@[simp] theorem nextAct_draws (s : State) : (nextAct s).draws = s.draws := by
  unfold nextAct; split <;> simp

/-! ## hostStart -/

@[simp] theorem hostStart_params (s : State) : (hostStart s).params = s.params := by
  unfold hostStart; split <;> rfl
@[simp] theorem hostStart_dec (s : State) : (hostStart s).dec = s.dec := by
  unfold hostStart; split <;> rfl
@[simp] theorem hostStart_bus (s : State) : (hostStart s).bus = s.bus := by
  unfold hostStart; split <;> rfl
@[simp] theorem hostStart_line (s : State) : (hostStart s).line = s.line := by
  unfold hostStart; split <;> rfl
@[simp] theorem hostStart_tick (s : State) : (hostStart s).tick = s.tick := by
  unfold hostStart; split <;> rfl
@[simp] theorem hostStart_chip (s : State) : (hostStart s).chip = s.chip := by
  unfold hostStart; split <;> rfl
@[simp] theorem hostStart_moves (s : State) : (hostStart s).moves = s.moves := by
  unfold hostStart; split <;> rfl
@[simp] theorem hostStart_draws (s : State) : (hostStart s).draws = s.draws := by
  unfold hostStart; split <;> rfl

/-! ## rstRelease -/

@[simp] theorem rstRelease_params (s : State) : (rstRelease s).params = s.params := by
  unfold rstRelease; split <;> rfl
@[simp] theorem rstRelease_dec (s : State) : (rstRelease s).dec = s.dec := by
  unfold rstRelease; split <;> rfl
@[simp] theorem rstRelease_bus (s : State) : (rstRelease s).bus = s.bus := by
  unfold rstRelease; split <;> rfl
@[simp] theorem rstRelease_line (s : State) : (rstRelease s).line = s.line := by
  unfold rstRelease; split <;> rfl
@[simp] theorem rstRelease_tick (s : State) : (rstRelease s).tick = s.tick := by
  unfold rstRelease; split <;> rfl
@[simp] theorem rstRelease_chip (s : State) : (rstRelease s).chip = s.chip := by
  unfold rstRelease; split <;> rfl
@[simp] theorem rstRelease_moves (s : State) : (rstRelease s).moves = s.moves := by
  unfold rstRelease; split <;> rfl
@[simp] theorem rstRelease_draws (s : State) : (rstRelease s).draws = s.draws := by
  unfold rstRelease; split <;> rfl

end Sys2Proof.Machine
end

