-- ==== Sys2Proof/Laws/Memory.lean ====
section
/-! SUPPORT. The laws of the target's register memory: read after write, every other address left alone, and the canonical form kept by
every operation. -/

namespace Sys2Proof.Machine

/-! ## Reading -/

@[simp] theorem Memory.read_nil (n a : Nat) : Memory.read n [] a = unlistedByte n a := rfl

theorem Memory.read_erase_same (n : Nat) (m : Memory) (a : Nat) : (m.erase a).read n a = unlistedByte n a := by
  induction m with
  | nil => rfl
  | cons c rest ih =>
    by_cases h : c.1 = a
    · simpa [Memory.erase, h] using ih
    · have h' : a ≠ c.1 := fun hh => h hh.symm
      simpa [Memory.erase, h, Memory.read, h'] using ih

theorem Memory.read_erase_other (n : Nat) (m : Memory) {a b : Nat} (h : b ≠ a) : (m.erase a).read n b = m.read n b := by
  induction m with
  | nil => rfl
  | cons c rest ih =>
    by_cases hc : c.1 = a
    · have hb : b ≠ c.1 := fun hh => h (hh.trans hc)
      simpa [Memory.erase, hc, Memory.read, h] using ih
    · by_cases hb : b = c.1
      · simp [Memory.erase, hc, Memory.read, hb]
      · simpa [Memory.erase, hc, Memory.read, hb] using ih

/-- In a list without the address `a`, a cell put in for `a` is the one that is read there. -/
theorem Memory.read_insert (n : Nat) (m : Memory) (a b : Nat) (v : Byte) (hm : ∀ c ∈ m, c.1 ≠ a) :
    (m.insert a v).read n b = if b = a then v else m.read n b := by
  induction m with
  | nil => simp [Memory.insert, Memory.read]
  | cons c rest ih =>
    have hc : c.1 ≠ a := hm c (by simp)
    have ih := ih (fun x hx => hm x (by simp [hx]))
    simp only [Memory.insert]
    split
    · simp [Memory.read]
    · by_cases hb : b = c.1
      · simp [Memory.read, hb, hc]
      · simp [Memory.read, hb, ih]

theorem Memory.erase_absent (m : Memory) (a : Nat) : ∀ c ∈ m.erase a, c.1 ≠ a := by
  intro c hc
  simpa [Memory.erase] using (List.mem_filter.mp hc).2

/-- Read after write: the address written reads the value written, every other address reads as before. -/
theorem Memory.read_write (n : Nat) (m : Memory) (a b : Nat) (v : Byte) :
    (m.write n a v).read n b = if b = a then v else m.read n b := by
  unfold Memory.write
  split
  · next hv =>
    split
    · next h => subst h; rw [Memory.read_erase_same, hv]
    · next h => exact Memory.read_erase_other n m h
  · rw [Memory.read_insert n _ a b v (m.erase_absent a)]
    split
    · rfl
    · next h => exact Memory.read_erase_other n m h

/-! ## The canonical form -/

theorem Memory.risingFrom_mono {m : Memory} {lo hi : Nat} (h : m.risingFrom hi = true) (hlo : lo ≤ hi) :
    m.risingFrom lo = true := by
  cases m with
  | nil => rfl
  | cons c rest =>
    simp only [Memory.risingFrom, Bool.and_eq_true, decide_eq_true_eq] at h ⊢
    exact ⟨⟨by omega, h.1.2⟩, h.2⟩

theorem Memory.risingFrom_erase {m : Memory} {lo : Nat} (a : Nat) (h : m.risingFrom lo = true) :
    (m.erase a).risingFrom lo = true := by
  induction m generalizing lo with
  | nil => rfl
  | cons c rest ih =>
    simp only [Memory.risingFrom, Bool.and_eq_true, decide_eq_true_eq] at h
    by_cases hc : c.1 = a
    · have := Memory.risingFrom_mono (ih h.2) (show lo ≤ c.1 + 1 by omega)
      simpa [Memory.erase, hc] using this
    · have := ih h.2
      simp only [Memory.erase] at this
      simp [Memory.erase, hc, Memory.risingFrom, h.1.1, h.1.2, this]

theorem Memory.risingFrom_insert {m : Memory} {lo a : Nat} (v : Byte) (hlo : lo ≤ a) (ha : a < 256)
    (hm : ∀ c ∈ m, c.1 ≠ a) (h : m.risingFrom lo = true) : (m.insert a v).risingFrom lo = true := by
  induction m generalizing lo with
  | nil => simp [Memory.insert, Memory.risingFrom, hlo, ha]
  | cons c rest ih =>
    have hc : c.1 ≠ a := hm c (by simp)
    simp only [Memory.risingFrom, Bool.and_eq_true, decide_eq_true_eq] at h
    simp only [Memory.insert]
    split
    · next hlt => simp [Memory.risingFrom, hlo, ha, hlt, h.1.2, h.2]
    · simp [Memory.risingFrom, h.1.1, h.1.2, ih (by omega) (fun x hx => hm x (by simp [hx])) h.2]

theorem Memory.mem_insert {m : Memory} {a : Nat} {v : Byte} {c : Host.Cell} (h : c ∈ m.insert a v) : c = (a, v) ∨ c ∈ m := by
  induction m with
  | nil => simpa [Memory.insert] using h
  | cons d rest ih =>
    simp only [Memory.insert] at h
    split at h
    · simpa using h
    · rcases List.mem_cons.mp h with h | h
      · simp [h]
      · rcases ih h with h | h <;> simp [h]

@[simp] theorem Memory.nil_wf (n : Nat) : Memory.wf n [] = true := rfl

/-- A write at an address of the address space keeps the canonical form. -/
theorem Memory.write_wf {n : Nat} {m : Memory} {a : Nat} (v : Byte) (ha : a < 256) (h : m.wf n = true) :
    (m.write n a v).wf n = true := by
  simp only [Memory.wf, Bool.and_eq_true, List.all_eq_true, bne_iff_ne] at h ⊢
  have hall : ∀ c ∈ m.erase a, c.2 ≠ unlistedByte n c.1 := fun c hc => h.2 c (List.mem_of_mem_filter hc)
  unfold Memory.write
  split
  · exact ⟨Memory.risingFrom_erase a h.1, hall⟩
  · next hv =>
    refine ⟨Memory.risingFrom_insert v (Nat.zero_le a) ha (m.erase_absent a) (Memory.risingFrom_erase a h.1), ?_⟩
    intro c hc
    rcases Memory.mem_insert hc with rfl | hc
    · exact hv
    · exact hall c hc

theorem Memory.read_below {n lo a : Nat} {m : Memory} (h : m.risingFrom lo = true) (ha : a < lo) :
    m.read n a = unlistedByte n a := by
  induction m generalizing lo with
  | nil => rfl
  | cons c rest ih =>
    simp only [Memory.risingFrom, Bool.and_eq_true, decide_eq_true_eq] at h
    have hne : a ≠ c.1 := by omega
    simpa [Memory.read, hne] using ih h.2 (by omega)

/-- Memories in canonical form that read alike are equal: equal memories are equal data. -/
theorem Memory.eq_of_read_eq {n lo : Nat} {m k : Memory} (hm : m.risingFrom lo = true) (hk : k.risingFrom lo = true)
    (hm' : ∀ c ∈ m, c.2 ≠ unlistedByte n c.1) (hk' : ∀ c ∈ k, c.2 ≠ unlistedByte n c.1)
    (h : ∀ a, m.read n a = k.read n a) : m = k := by
  induction m generalizing lo k with
  | nil =>
    cases k with
    | nil => rfl
    | cons d k => exact absurd (by simpa [Memory.read] using (h d.1).symm) (hk' d (by simp))
  | cons c m ih =>
    cases k with
    | nil => exact absurd (by simpa [Memory.read] using h c.1) (hm' c (by simp))
    | cons d k =>
      simp only [Memory.risingFrom, Bool.and_eq_true, decide_eq_true_eq] at hm hk
      have hcd : c.1 = d.1 := by
        rcases Nat.lt_trichotomy c.1 d.1 with hlt | he | hlt
        · have h1 := h c.1
          rw [Memory.read_below (m := d :: k) (lo := d.1) (by simp [Memory.risingFrom, hk.1.2, hk.2]) hlt] at h1
          exact absurd (by simpa [Memory.read] using h1) (hm' c (by simp))
        · exact he
        · have h1 := (h d.1).symm
          rw [Memory.read_below (m := c :: m) (lo := c.1) (by simp [Memory.risingFrom, hm.1.2, hm.2]) hlt] at h1
          exact absurd (by simpa [Memory.read] using h1) (hk' d (by simp))
      have hv : c.2 = d.2 := by simpa [Memory.read, hcd] using h c.1
      have hrest : m = k := by
        refine ih (lo := c.1 + 1) hm.2 (hcd ▸ hk.2) (fun x hx => hm' x (by simp [hx])) (fun x hx => hk' x (by simp [hx])) ?_
        intro a
        by_cases ha : a = c.1
        · rw [Memory.read_below hm.2 (by omega), Memory.read_below (lo := d.1 + 1) hk.2 (by omega)]
        · simpa [Memory.read, ha, hcd ▸ ha] using h a
      rw [hrest, Prod.ext hcd hv]

/-- The observer's only operations on the memory keep its canonical form: closing a window, ... -/
theorem Chip.closeWindow_wf (p : Params) (l : Lines) (c : Chip) (h : c.reg.wf c.regDraw = true) :
    (c.closeWindow p l).reg.wf (c.closeWindow p l).regDraw = true := by
  unfold Chip.closeWindow
  split
  · exact h
  · split
    · exact h
    · split
      · split
        · exact h
        · exact Memory.write_wf _ c.latch.isLt h
      · rfl

/-- ... any change of the lines, ... -/
theorem Chip.observe_wf (p : Params) (x y : Lines) (c : Chip) (h : c.reg.wf c.regDraw = true) :
    (c.observe p x y).reg.wf (c.observe p x y).regDraw = true := by
  have hc := Chip.closeWindow_wf p x c h
  unfold Chip.observe Chip.openWindow Chip.disturb
  split <;> split <;> split <;> simp_all

/-- ... and forgetting. -/
@[simp] theorem Chip.anyValue_reg (c : Chip) : c.anyValue.reg = [] := rfl

theorem Chip.cutByReset_wf (x y : Lines) (c : Chip) (h : c.reg.wf c.regDraw = true) :
    (c.cutByReset x y).reg.wf (c.cutByReset x y).regDraw = true := by
  unfold Chip.cutByReset Chip.disturb
  split <;> split <;> simp_all

@[simp] theorem Chip.tick_reg (c : Chip) : c.tick.reg = c.reg := rfl

@[simp] theorem reset_memory_wf : State.reset.chip.reg.wf State.reset.chip.regDraw = true := rfl

end Sys2Proof.Machine
end

