-- ==== Sys2Proof/Laws/Operands.lean ====
section
/-! SUPPORT. The numbers that operand words stand for, and that taking a field from a built word gives the field back. -/

namespace Sys2Proof.Machine

/-! ## Built words as numbers -/

theorem writeWord_toNat (a d : Byte) : (writeWord a d).toNat = a.toNat * 256 + d.toNat := by
  show BitVec.toNat (w := 1 + 8 + 8) (0#1 ++ a ++ d) = _
  rw [BitVec.toNat_append, BitVec.toNat_append, ← Nat.shiftLeft_add_eq_or_of_lt d.isLt, ← Nat.shiftLeft_add_eq_or_of_lt a.isLt]
  simp [Nat.shiftLeft_eq]

theorem chipResetWord_toNat (x : BitVec 16) : (chipResetWord x).toNat = 65536 + x.toNat := by
  show BitVec.toNat (w := 1 + 16) (1#1 ++ x) = _
  rw [BitVec.toNat_append, ← Nat.shiftLeft_add_eq_or_of_lt x.isLt]
  simp [Nat.shiftLeft_eq]

theorem statusByte_toNat (hi lo : Nibble) : (statusByte hi lo).toNat = hi.toNat * 16 + lo.toNat := by
  show BitVec.toNat (w := 4 + 4) (hi ++ lo) = _
  rw [BitVec.toNat_append, ← Nat.shiftLeft_add_eq_or_of_lt lo.isLt]
  simp [Nat.shiftLeft_eq]

theorem voiceAddress_toNat (base i : Nibble) : (voiceAddress base i).toNat = base.toNat * 16 + i.toNat :=
  statusByte_toNat base i

theorem dataByteOf_toNat (d : BitVec 7) : (dataByteOf d).toNat = d.toNat := by
  show BitVec.toNat (w := 1 + 7) (0#1 ++ d) = _
  rw [BitVec.toNat_append, ← Nat.shiftLeft_add_eq_or_of_lt d.isLt]
  simp

theorem dataByteOf_eq_setWidth (d : BitVec 7) : dataByteOf d = d.setWidth 8 := by
  apply BitVec.eq_of_toNat_eq
  rw [dataByteOf_toNat, BitVec.toNat_setWidth, Nat.mod_eq_of_lt (by have := d.isLt; omega)]

/-- The packed event as a number (R97). -/
theorem pack_toNat (e : NoteEvent) :
    e.pack.toNat = ((e.kind.toNat * 16 + e.instrument.toNat) * 256 + e.note.toNat) * 256 + e.velocity.toNat := by
  show BitVec.toNat (w := 1 + 4 + 8 + 8) (e.kind ++ e.instrument ++ e.note ++ e.velocity) = _
  rw [BitVec.toNat_append, BitVec.toNat_append, BitVec.toNat_append, ← Nat.shiftLeft_add_eq_or_of_lt e.velocity.isLt,
    ← Nat.shiftLeft_add_eq_or_of_lt e.note.isLt, ← Nat.shiftLeft_add_eq_or_of_lt e.instrument.isLt]
  simp [Nat.shiftLeft_eq]

/-! ## Bits and fields as numbers -/

/-- The top bit of a word. -/
theorem topBit (n : Nat) (b : BitVec (n + 1)) : b.getLsbD n = decide (2 ^ n ≤ b.toNat) := by
  rw [BitVec.getLsbD, Nat.testBit_eq_decide_div_mod_eq]
  have h := b.isLt
  have hlt : b.toNat / 2 ^ n < 2 := (Nat.div_lt_iff_lt_mul (by positivity)).2 (by rw [Nat.mul_comm, ← pow_succ]; exact h)
  by_cases hb : 2 ^ n ≤ b.toNat
  · have : 1 ≤ b.toNat / 2 ^ n := (Nat.le_div_iff_mul_le (by positivity)).2 (by simpa using hb)
    simp [hb, show b.toNat / 2 ^ n = 1 by omega]
  · simp [hb, Nat.div_eq_of_lt (by omega : b.toNat < 2 ^ n)]

theorem isStatus_iff (b : Byte) : isStatus b = true ↔ 128 ≤ b.toNat := by
  rw [isStatus, topBit 7 b, decide_eq_true_eq]; norm_num

theorem opcodeNibble_toNat (b : Byte) : (opcodeNibble b).toNat = b.toNat / 16 := by
  have := b.isLt
  simp only [opcodeNibble, BitVec.extractLsb'_toNat, Nat.shiftRight_eq_div_pow]
  omega

theorem instrumentOf_toNat (b : Byte) : (instrumentOf b).toNat = b.toNat % 16 := by
  simp [instrumentOf, BitVec.extractLsb'_toNat]

theorem chipSelectsReset_iff (w : CmdWord) : w.getLsbD 16 = true ↔ 65536 ≤ w.toNat := by
  rw [topBit 16 w, decide_eq_true_eq]; norm_num

/-! ## Fields of built words -/

theorem isStatus_dataByteOf (d : BitVec 7) : isStatus (dataByteOf d) = false := by
  have := d.isLt
  rw [← Bool.not_eq_true, isStatus_iff, dataByteOf_toNat]
  omega

theorem opcodeNibble_statusByte (hi lo : Nibble) : opcodeNibble (statusByte hi lo) = hi := by
  apply BitVec.eq_of_toNat_eq
  have := lo.isLt
  rw [opcodeNibble_toNat, statusByte_toNat]
  omega

theorem instrumentOf_statusByte (hi lo : Nibble) : instrumentOf (statusByte hi lo) = lo := by
  apply BitVec.eq_of_toNat_eq
  have := lo.isLt
  rw [instrumentOf_toNat, statusByte_toNat]
  omega

theorem writeWord_isWrite (a d : Byte) : (writeWord a d).getLsbD 16 = false := by
  have := a.isLt; have := d.isLt
  rw [← Bool.not_eq_true, chipSelectsReset_iff, writeWord_toNat]
  omega

theorem writeWord_address (a d : Byte) : (writeWord a d).extractLsb' 8 8 = a := by
  apply BitVec.eq_of_toNat_eq
  have := a.isLt; have := d.isLt
  rw [BitVec.extractLsb'_toNat, writeWord_toNat, Nat.shiftRight_eq_div_pow]
  omega

theorem writeWord_data (a d : Byte) : (writeWord a d).extractLsb' 0 8 = d := by
  apply BitVec.eq_of_toNat_eq
  have := d.isLt
  rw [BitVec.extractLsb'_toNat, writeWord_toNat, Nat.shiftRight_eq_div_pow]
  omega

theorem chipResetWord_isReset (x : BitVec 16) : (chipResetWord x).getLsbD 16 = true := by
  rw [chipSelectsReset_iff, chipResetWord_toNat]
  omega

end Sys2Proof.Machine
end

