-- ==== Sys2Proof/Laws/Ops.lean ====
section
/-! SUPPORT. What each shared operation can do, said once, for later proofs to cite instead of unfolding it. -/

namespace Sys2Proof.Machine

/-! ## The observer (R152) -/

@[simp] theorem Chip.disturb_latch (c : Chip) : c.disturb.latch = c.latch := rfl
@[simp] theorem Chip.disturb_reg (c : Chip) : c.disturb.reg = c.reg := rfl
@[simp] theorem Chip.disturb_regDraw (c : Chip) : c.disturb.regDraw = c.regDraw := rfl
@[simp] theorem Chip.disturb_stable (c : Chip) : c.disturb.stable = 0 := rfl
@[simp] theorem Chip.disturb_window_none (c : Chip) : c.disturb.window = none ↔ c.window = none := by
  simp [Chip.disturb]
@[simp] theorem Chip.openWindow_latch (p : Params) (c : Chip) : (c.openWindow p).latch = c.latch := rfl
@[simp] theorem Chip.openWindow_reg (p : Params) (c : Chip) : (c.openWindow p).reg = c.reg := rfl
@[simp] theorem Chip.openWindow_regDraw (p : Params) (c : Chip) : (c.openWindow p).regDraw = c.regDraw := rfl
@[simp] theorem Chip.openWindow_stable (p : Params) (c : Chip) : (c.openWindow p).stable = c.stable := rfl
@[simp] theorem Chip.openWindow_window (p : Params) (c : Chip) :
    (c.openWindow p).window = some { ticks := 0, settled := decide (p.tSettle ≤ c.stable), steady := true } := rfl
@[simp] theorem Chip.tick_latch (c : Chip) : c.tick.latch = c.latch := rfl
@[simp] theorem Chip.tick_regDraw (c : Chip) : c.tick.regDraw = c.regDraw := rfl
@[simp] theorem Chip.tick_stable (c : Chip) : c.tick.stable = c.stable + 1 := rfl
@[simp] theorem Chip.tick_window (c : Chip) :
    c.tick.window = c.window.map (fun w => { w with ticks := w.ticks + 1 }) := rfl
@[simp] theorem Chip.anyValue_window (c : Chip) : c.anyValue.window = c.window := rfl
@[simp] theorem Chip.anyValue_regDraw (c : Chip) : c.anyValue.regDraw = c.draws := rfl
@[simp] theorem Chip.anyValue_stable (c : Chip) : c.anyValue.stable = c.stable := rfl

@[simp] theorem Chip.closeWindow_stable (p : Params) (l : Lines) (c : Chip) : (c.closeWindow p l).stable = c.stable := by
  unfold Chip.closeWindow
  split
  · rfl
  · split
    · rfl
    · split
      · split <;> rfl
      · rfl

@[simp] theorem Chip.closeWindow_window (p : Params) (l : Lines) (c : Chip) : (c.closeWindow p l).window = none := by
  unfold Chip.closeWindow
  split
  · assumption
  · split
    · rfl
    · split
      · split <;> rfl
      · rfl

/-- A target held in reset is not affected by the end of a window (R152). -/
theorem Chip.closeWindow_inReset (p : Params) (l : Lines) (c : Chip) (h : l.ic = .asserted) :
    c.closeWindow p l = { c with window := none } := by
  unfold Chip.closeWindow
  split
  · next hw => rw [← hw]
  · simp [h]

/-- The end of a good window (R152): a good address cycle sets the latch, a good data cycle writes the latched register. -/
theorem Chip.closeWindow_good (p : Params) (l : Lines) (c : Chip) (w : Window) (hw : c.window = some w)
    (hic : l.ic = .deasserted) (hg : goodCycle p w l = true) :
    c.closeWindow p l = match l.a0 with
      | .l => { c with window := none, latch := l.d }
      | .h => { c with window := none, reg := c.reg.write c.regDraw c.latch.toNat l.d } := by
  unfold Chip.closeWindow
  simp only [hw, hic, hg]
  rfl

/-- A change of lines that does not take chip-select away leaves the latch and the registers alone. -/
theorem Chip.observe_keeps (p : Params) (x y : Lines) (c : Chip) (h : x.cs = .asserted → y.cs = .asserted) :
    (c.observe p x y).latch = c.latch ∧ (c.observe p x y).reg = c.reg ∧ (c.observe p x y).regDraw = c.regDraw := by
  have hno : ¬ (x.cs = .asserted ∧ y.cs ≠ .asserted) := fun hh => hh.2 (h hh.1)
  unfold Chip.observe
  simp only [hno, if_false]
  split <;> split <;> simp

/-- A change of lines that leaves chip-select as it is (not asserted, or asserted before and after). -/
theorem Chip.observe_sameCs (p : Params) (x y : Lines) (c : Chip) (h : x.cs = y.cs) :
    c.observe p x y = if x.sameBus y then c else c.disturb := by
  unfold Chip.observe
  have h1 : ¬ (x.cs = .asserted ∧ y.cs ≠ .asserted) := by rw [h]; exact fun hh => hh.2 hh.1
  have h2 : ¬ (x.cs ≠ .asserted ∧ y.cs = .asserted) := by rw [h]; exact fun hh => hh.1 hh.2
  simp only [h1, h2, if_false]

/-- Chip-select becomes asserted and nothing else changes. -/
theorem Chip.observe_opens (p : Params) (x y : Lines) (c : Chip) (hb : x.sameBus y = true) (hx : x.cs ≠ .asserted)
    (hy : y.cs = .asserted) : c.observe p x y = c.openWindow p := by
  simp [Chip.observe, hb, hx, hy]

/-- Chip-select goes away and nothing else changes. -/
theorem Chip.observe_closes (p : Params) (x y : Lines) (c : Chip) (hb : x.sameBus y = true) (hx : x.cs = .asserted)
    (hy : y.cs ≠ .asserted) : c.observe p x y = c.closeWindow p x := by
  simp [Chip.observe, hb, hx, hy]

/-! ## Waiting (R141) -/

/-- All that a wait can do. -/
theorem waitTicks_cases (n : Nat) (p : Phase) (s : State) :
    (n ≤ elapsed s ∧ waitTicks n p s = toPhase p s) ∨ (elapsed s < n ∧ waitTicks n p s = s) := by
  unfold waitTicks
  split
  · exact .inl ⟨‹_›, rfl⟩
  · exact .inr ⟨by omega, rfl⟩

theorem modDiff_self (w a : Nat) : modDiff w a a = 0 := by
  simp [modDiff]

theorem modDiff_lt (w a b : Nat) : modDiff w a b < 2 ^ w := Nat.mod_lt _ (by positivity)

/-- A tick adds at most one to the elapsed count (it may wrap it to 0). -/
theorem modDiff_tick_le (w a b : Nat) (ha : a < 2 ^ w) (hb : b < 2 ^ w) :
    modDiff w ((a + 1) % 2 ^ w) b ≤ modDiff w a b + 1 := by
  unfold modDiff
  generalize 2 ^ w = m at *
  have hmod : ∀ x, x < 2 * m → x % m = if x < m then x else x - m := by
    intro x hx
    split
    · exact Nat.mod_eq_of_lt ‹_›
    · rw [Nat.mod_eq_sub_mod (by omega), Nat.mod_eq_of_lt (by omega)]
  have h1 : (a + 1) % m < m := Nat.mod_lt _ (by omega)
  rw [hmod (a + m - b) (by omega), hmod _ (by omega)]
  rw [hmod (a + 1) (by omega)]
  split <;> split <;> split <;> omega

/-! ## Commands (R120, R151) -/

/-- A command is accepted in `Idle` and refused by name otherwise. -/
theorem runCommand_cases (w : CmdWord) (s : State) :
    (s.bus.phase = .idle ∧ runCommand w s = .next (acceptCommand w s)) ∨
    (s.bus.phase ≠ .idle ∧ runCommand w s = .refused .commandWhileBusy) := by
  unfold runCommand cmdReady
  by_cases h : s.bus.phase = .idle <;> simp [h]

theorem acceptCommand_write (a d : Byte) (s : State) : acceptCommand (writeWord a d) s =
    { s with bus := { s.bus with phase := .w0, addr := a, data := d }, port := { s.port with cmd := none } } := by
  unfold acceptCommand
  rw [writeWord_isWrite, writeWord_address, writeWord_data]
  rfl

theorem acceptCommand_chipReset (x : BitVec 16) (s : State) : acceptCommand (chipResetWord x) s =
    { s with bus := { s.bus with phase := .x0 }, port := { s.port with cmd := none } } := by
  unfold acceptCommand
  rw [chipResetWord_isReset]
  rfl

/-! ## The decoder (R184) -/

/-- A byte is taken exactly while no event is waiting (R186). -/
theorem takeByteFrom_ready (q : DecState) (b : Byte) (s : State) (h : s.dec.evValid = false) : takeByteFrom q b s =
    { s with
      dec := emit (decStep s.params q s.dec.buf b).ev
        { s.dec with state := (decStep s.params q s.dec.buf b).state, buf := (decStep s.params q s.dec.buf b).buf }
      port := { s.port with rx := none } } := by
  simp [takeByteFrom, rxReady, h]

theorem takeByteFrom_waits (q : DecState) (b : Byte) (s : State) (h : s.dec.evValid = true) : takeByteFrom q b s = s := by
  simp [takeByteFrom, rxReady, h]

/-- A status byte does not depend on the state (R171). -/
theorem decStep_status (p : Params) (q : DecState) (buf : MsgBuf) (b : Byte) (h : isStatus b = true) :
    decStep p q buf b = decStatus p buf b := by
  simp [decStep, h]

theorem decStep_data (p : Params) (q : DecState) (buf : MsgBuf) (b : Byte) (h : isStatus b = false) :
    decStep p q buf b = decData q buf b := by
  simp [decStep, h]

@[simp] theorem emit_none (d : Dec) : emit none d = d := rfl
@[simp] theorem emit_some (e : NoteEvent) (d : Dec) : emit (some e) d = { d with ev := e, evValid := true } := rfl

/-! ## The host's acts: none of them touches the block beyond its ports -/

/-- All that handing a byte over can do: only in serial mode, DEC ready and the port free (R213, R215). -/
theorem handByte_cases (s : State) : handByte s = s ∨
    ∃ b rest, s.port.rx = none ∧ s.env.uart = b :: rest ∧ s.env.mode = .serial ∧ s.dec.evValid = false ∧
      handByte s = { s with port := { s.port with rx := some b }, env := { s.env with uart := rest } } := by
  unfold handByte
  split
  · next b rest hrx hu =>
    split
    · next h => exact .inr ⟨b, rest, hrx, hu, h.1, by simpa [rxReady] using h.2, rfl⟩
    · exact .inl rfl
  · exact .inl rfl

/-- All that the host's next act can do: nothing; a chip reset before a write that it owes one; a command; a change of the table
between commands. -/
theorem doNextAct_cases (s : State) : doNextAct s = s ∨ (∃ w rest, s.port.cmd = none ∧ s.env.acts = .command w :: rest ∧
      ((s.env.owesChipReset = true ∧ w.getLsbD 16 = false ∧ doNextAct s = present (chipResetWord 0#16) s.env.acts s) ∨
       ((s.env.owesChipReset = false ∨ w.getLsbD 16 = true) ∧ doNextAct s = present w rest s))) ∨
    (∃ a rest, s.port.cmd = none ∧ s.env.acts = a :: rest ∧ (∀ w, a ≠ .command w) ∧ s.bus.phase = .idle ∧
      doNextAct s = { s with env := { s.env with table := a.onTable s.env.table, acts := rest } }) := by
  unfold doNextAct
  split
  · next w rest hc ha =>
    refine .inr (.inl ⟨w, rest, hc, ha, ?_⟩)
    split
    · next h => exact .inl ⟨h.1, h.2, rfl⟩
    · next h =>
      refine .inr ⟨?_, rfl⟩
      cases ho : s.env.owesChipReset <;> simp_all
  · next a rest hn hc ha =>
    split
    · exact .inl rfl
    · next hb => exact .inr (.inr ⟨a, rest, hc, ha, hn, by simpa [busy] using hb, rfl⟩)
  · exact .inl rfl
  · exact .inl rfl

@[simp] theorem nextAct_rst (s : State) (h : s.port.rst = true) : nextAct s = s := by simp [nextAct, h]
@[simp] theorem nextAct_released (s : State) (h : s.port.rst = false) : nextAct s = doNextAct s := by simp [nextAct, h]

/-- The host's startup either changes nothing or is its initialisation with no command presented. -/
theorem hostStart_cases (s : State) :
    (s.env.owesChipReset = true ∧ s.port.cmd = none ∧ s.env.acts = [] ∧ hostStart s = hostInit s) ∨ hostStart s = s := by
  unfold hostStart
  split
  · next h =>
    have hf : (s.env.acts = [] ∧ s.port.cmd = none) ∧ cmdReady s = true := by simpa [hostFree] using h.2.1
    exact .inl ⟨h.1, hf.1.2, hf.1.1, rfl⟩
  · exact .inr rfl

/-- The host takes an event when it is free, and otherwise the event waits (R201). -/
theorem takeWhenFree_cases (e : NoteEvent) (s : State) :
    (hostFree s = true ∧ takeWhenFree e s = hostTake e s) ∨ (hostFree s = false ∧ takeWhenFree e s = s) := by
  unfold takeWhenFree
  cases h : hostFree s <;> simp

/-- What taking an event can do. -/
theorem takePending_cases (s : State) :
    (s.dec.evValid = true ∧ hostFree s = true ∧ takePending s = hostTake s.dec.ev s) ∨ takePending s = s := by
  unfold takePending
  split
  · next h =>
    rcases takeWhenFree_cases s.dec.ev s with ⟨hf, he⟩ | ⟨-, he⟩
    · exact .inl ⟨h, hf, he⟩
    · exact .inr he
  · exact .inr rfl

/-- An address row ends the address window that carries its address, and otherwise does nothing. -/
theorem latchRow_cases (a : Byte) (s : State) :
    (s.bus.phase = .w7 ∧ s.line.d = a ∧ latchRow a s = deselectAddress s) ∨
    ((s.bus.phase ≠ .w7 ∨ s.line.d ≠ a) ∧ latchRow a s = s) := by
  unfold latchRow
  split
  · next h => exact .inl ⟨h.1, h.2, rfl⟩
  · next h => exact .inr ⟨by tauto, rfl⟩

/-- All that an iteration of the control loop can do. -/
theorem loopTurn_cases (s : State) : loopTurn s = s ∨ loopTurn s = nextAct s ∨ loopTurn s = handleKeyEvent s ∨
    loopTurn s = takePending s ∨ loopTurn s = switchMode s ∨ loopTurn s = pollSource s := by
  unfold loopTurn
  split <;> simp

end Sys2Proof.Machine
end

