-- ==== Sys2Proof/Laws/Step.lean ====
section
/-! SUPPORT. What a step can do, said once. -/

namespace Sys2Proof.Machine

/-- All that a step can do: the tick source steps because no move is scheduled; or the next move runs an instruction; or it runs none. -/
theorem step_cases {s t : State} (h : step s = .next t) :
    (s.moves = [] ∧ t = tickSource s) ∨
    (∃ m rest i, s.moves = m :: rest ∧ fetch m { s with moves := rest } = some i ∧ exec i { s with moves := rest } = .next t) ∨
    (∃ m rest, s.moves = m :: rest ∧ fetch m { s with moves := rest } = none ∧ t = environment m { s with moves := rest }) := by
  unfold step at h
  split at h
  · next hm => exact .inl ⟨hm, by simpa using h.symm⟩
  · next m rest hm =>
    simp only at h
    split at h
    · next i hf => exact .inr (.inl ⟨m, rest, i, hm, hf, h⟩)
    · next hf => exact .inr (.inr ⟨m, rest, hm, hf, by simpa using h.symm⟩)

/-- A step with no move scheduled is the tick source's (log entry 1). -/
theorem step_no_moves (s : State) (h : s.moves = []) : step s = .next (tickSource s) := by
  unfold step; rw [h]

theorem step_runs {s : State} {m : Move} {rest : List Move} {i : Instr} (h : s.moves = m :: rest)
    (hf : fetch m { s with moves := rest } = some i) : step s = exec i { s with moves := rest } := by
  unfold step; rw [h]; simp only [hf]

theorem step_environment {s : State} {m : Move} {rest : List Move} (h : s.moves = m :: rest)
    (hf : fetch m { s with moves := rest } = none) : step s = .next (environment m { s with moves := rest }) := by
  unfold step; rw [h]; simp only [hf]

/-- The moves that can run an instruction. -/
theorem fetch_some {m : Move} {s : State} {i : Instr} (h : fetch m s = some i) :
    (m = .dec ∧ s.port.rst = false ∧ i = fetchDec s) ∨ (m = .bus ∧ s.port.rst = false ∧ i = fetchBus s) ∨
    (m = .address ∧ s.port.rst = false ∧ fetchAddress s = some i) ∨ ((m = .takeEvent ∨ m = .loop) ∧ fetchEvent s = some i) := by
  cases m <;> simp only [fetch] at h <;> try (simp at h; done)
  · split at h
    · simp at h
    · next hr => exact .inl ⟨rfl, by simpa using hr, by simpa using h.symm⟩
  · split at h
    · simp at h
    · next hr => exact .inr (.inl ⟨rfl, by simpa using hr, by simpa using h.symm⟩)
  · split at h
    · simp at h
    · next hr => exact .inr (.inr (.inl ⟨rfl, by simpa using hr, h⟩))
  · exact .inr (.inr (.inr ⟨.inl rfl, h⟩))
  · split at h
    · exact .inr (.inr (.inr ⟨.inr rfl, h⟩))
    · simp at h

end Sys2Proof.Machine
end

