-- ==== Sys2Proof/Laws/Fairness.lean ====
section
/-! SUPPORT. Endless runs and what a fair tick source gives them (R277, R141). -/

namespace Sys2Proof.Machine

/-! ## The run under a schedule -/

theorem State.after_next {s t : State} {m : Move} (h : step { s with moves := [m] } = .next t) : s.after m = t := by
  unfold State.after; rw [h]

@[simp] theorem runUnder_zero (sched : Nat → Move) (s : State) : runUnder sched s 0 = s := rfl
@[simp] theorem runUnder_succ (sched : Nat → Move) (s : State) (k : Nat) :
    runUnder sched s (k + 1) = (runUnder sched s k).after (sched k) := rfl

/-- A run goes on as the run of its later moves from the state it has come to. -/
theorem runUnder_add (sched : Nat → Move) (s : State) (i k : Nat) :
    runUnder sched s (i + k) = runUnder (fun j => sched (i + j)) (runUnder sched s i) k := by
  induction k with
  | zero => rfl
  | succ k ih => rw [← Nat.add_assoc, runUnder_succ, ih, runUnder_succ]

/-! ## Ticks among moves -/

@[simp] theorem ticksAmong_zero (sched : Nat → Move) (i : Nat) : ticksAmong sched i 0 = 0 := rfl
@[simp] theorem ticksAmong_succ (sched : Nat → Move) (i len : Nat) :
    ticksAmong sched i (len + 1) = ticksAmong sched i len + (if sched (i + len) = .tick then 1 else 0) := rfl

theorem ticksAmong_add (sched : Nat → Move) (i a b : Nat) :
    ticksAmong sched i (a + b) = ticksAmong sched i a + ticksAmong sched (i + a) b := by
  induction b with
  | zero => rfl
  | succ b ih => rw [← Nat.add_assoc, ticksAmong_succ, ih, ticksAmong_succ, Nat.add_assoc i, Nat.add_assoc]

theorem ticksAmong_shift (sched : Nat → Move) (d i len : Nat) :
    ticksAmong (fun j => sched (d + j)) i len = ticksAmong sched (d + i) len := by
  induction len with
  | zero => rfl
  | succ len ih => rw [ticksAmong_succ, ih, ticksAmong_succ, Nat.add_assoc]

theorem ticksAmong_le (sched : Nat → Move) (i len : Nat) : ticksAmong sched i len ≤ len := by
  induction len with
  | zero => exact Nat.le_refl 0
  | succ len ih => rw [ticksAmong_succ]; split <;> omega

/-! ## Fairness -/

/-- The tick source is always enabled (R250), so it is fair exactly if it steps again and again. -/
theorem tickFair_iff (sched : Nat → Move) : TickFair sched ↔ ∀ k, ∃ j, k ≤ j ∧ sched j = .tick := by
  simp [TickFair, WeaklyFair]

theorem TickFair.shift {sched : Nat → Move} (h : TickFair sched) (d : Nat) : TickFair (fun j => sched (d + j)) := by
  rw [tickFair_iff] at *
  intro k
  obtain ⟨j, hj, ht⟩ := h (d + k)
  exact ⟨j - d, by omega, by rwa [show d + (j - d) = j by omega]⟩

theorem BusNotStarved.shift {p : Params} {sched : Nat → Move} (h : BusNotStarved p sched) (d : Nat) :
    BusNotStarved p (fun j => sched (d + j)) := by
  intro i len hno n hn
  rw [ticksAmong_shift]
  exact h (d + i) len (fun j hj => by simpa [Nat.add_assoc] using hno j hj) n hn

/-- Any number of ticks comes, and the move before which the count is reached exactly. -/
theorem TickFair.reaches {sched : Nat → Move} (h : TickFair sched) (i c : Nat) : ∃ len, ticksAmong sched i len = c := by
  rw [tickFair_iff] at h
  induction c with
  | zero => exact ⟨0, rfl⟩
  | succ c ih =>
    obtain ⟨len, hl⟩ := ih
    obtain ⟨j, hj, ht⟩ := h (i + len)
    have key : ∀ d, sched (i + (len + d)) = .tick → ∃ l, ticksAmong sched i l = c + 1 := by
      intro d
      induction d using Nat.strongRecOn with
      | _ d ihd =>
        intro hd
        by_cases hx : ∃ e, e < d ∧ sched (i + (len + e)) = .tick
        · obtain ⟨e, he, hte⟩ := hx
          exact ihd e he hte
        · have hz : ∀ e, e ≤ d → ticksAmong sched i (len + e) = c := by
            intro e
            induction e with
            | zero => intro _; exact hl
            | succ e ihe =>
              intro hle
              rw [← Nat.add_assoc, ticksAmong_succ, ihe (by omega), if_neg (fun hc => hx ⟨e, by omega, hc⟩), Nat.add_zero]
          exact ⟨len + d + 1, by rw [ticksAmong_succ, hz d (Nat.le_refl d), if_pos hd]⟩
    exact key (j - i - len) (by rwa [show i + (len + (j - i - len)) = j by omega])

/-- A BUS that is not starved has a turn at or after any move, with no turn in between. -/
theorem BusNotStarved.next_turn {p : Params} {sched : Nat → Move} (hb : BusNotStarved p sched) (ht : TickFair sched) (i : Nat) :
    ∃ d, sched (i + d) = .bus ∧ ∀ j, j < d → sched (i + j) ≠ .bus := by
  have hex : ∃ d, sched (i + d) = .bus := by
    obtain ⟨len, hl⟩ := ht.reaches i (2 ^ p.tickW)
    apply Classical.byContradiction
    intro hno
    have := hb i len (fun j _ hc => hno ⟨j, hc⟩) p.tSettle (by simp)
    omega
  obtain ⟨d, hd⟩ := hex
  induction d using Nat.strongRecOn with
  | _ d ih =>
    by_cases hx : ∃ e, e < d ∧ sched (i + e) = .bus
    · obtain ⟨e, he, hbe⟩ := hx
      exact ih e he hbe
    · exact ⟨d, hd, fun j hj hc => hx ⟨j, hj, hc⟩⟩

/-- With a fair tick source, a BUS that is not starved has a turn at which the modular difference is at least the wait's parameter,
whatever it is to begin with. -/
theorem BusNotStarved.polled_in_time {p : Params} {sched : Nat → Move} (hb : BusNotStarved p sched) (ht : TickFair sched)
    {n e : Nat} (hn : n ∈ [p.tSettle, p.tAddrLatch, p.tDataLatch, p.tResetPark]) (he : e < 2 ^ p.tickW) :
    ∃ k, sched k = .bus ∧ n ≤ (e + ticksAmong sched 0 k) % 2 ^ p.tickW := by
  obtain ⟨len, hl⟩ := ht.reaches 0 (2 ^ p.tickW + n - e)
  obtain ⟨d, hd, hno⟩ := hb.next_turn ht len
  have hlt := hb len d hno n hn
  refine ⟨len + d, hd, ?_⟩
  rw [ticksAmong_add, hl, Nat.zero_add,
    show e + (2 ^ p.tickW + n - e + ticksAmong sched len d) = (ticksAmong sched len d + n) + 2 ^ p.tickW by omega,
    Nat.add_mod_right, Nat.mod_eq_of_lt hlt]
  omega

end Sys2Proof.Machine
end

