-- ==== Sys2Proof/Laws/PerInstr.lean ====
section
/-! SUPPORT. Statements about every instruction as syntax, one lemma for each constructor of `Instr`. -/

namespace Sys2Proof.Laws.EncodeFits

/-- The word of an instruction has no bit above its format's width (R90, R96, R97, R98, R100). -/
def Statement (i : Instr) : Prop := encode i < 2 ^ i.format.width

theorem noteOffStatus (instrument : Nibble) : Statement (.noteOffStatus instrument) := BitVec.isLt _
theorem noteOnStatus (instrument : Nibble) : Statement (.noteOnStatus instrument) := BitVec.isLt _
theorem unrecognisedStatusA (ignored : Nibble) : Statement (.unrecognisedStatusA ignored) := BitVec.isLt _
theorem unrecognisedStatusB (ignored : Nibble) : Statement (.unrecognisedStatusB ignored) := BitVec.isLt _
theorem unrecognisedStatusC (ignored : Nibble) : Statement (.unrecognisedStatusC ignored) := BitVec.isLt _
theorem unrecognisedStatusD (ignored : Nibble) : Statement (.unrecognisedStatusD ignored) := BitVec.isLt _
theorem unrecognisedStatusE (ignored : Nibble) : Statement (.unrecognisedStatusE ignored) := BitVec.isLt _
theorem unrecognisedStatusF (ignored : Nibble) : Statement (.unrecognisedStatusF ignored) := BitVec.isLt _
theorem dataByte (value : BitVec 7) : Statement (.dataByte value) := BitVec.isLt _
theorem write (address data : Byte) : Statement (.write address data) := BitVec.isLt _
theorem chipReset (ignored : BitVec 16) : Statement (.chipReset ignored) := BitVec.isLt _
theorem phaseIdle : Statement .phaseIdle := by unfold Statement; decide
theorem w0 : Statement .w0 := by unfold Statement; decide
theorem w1 : Statement .w1 := by unfold Statement; decide
theorem w2 : Statement .w2 := by unfold Statement; decide
theorem w3 : Statement .w3 := by unfold Statement; decide
theorem w4 : Statement .w4 := by unfold Statement; decide
theorem w5 : Statement .w5 := by unfold Statement; decide
theorem w6 : Statement .w6 := by unfold Statement; decide
theorem w7 : Statement .w7 := by unfold Statement; decide
theorem w8 : Statement .w8 := by unfold Statement; decide
theorem w9 : Statement .w9 := by unfold Statement; decide
theorem w10 : Statement .w10 := by unfold Statement; decide
theorem w11 : Statement .w11 := by unfold Statement; decide
theorem w12 : Statement .w12 := by unfold Statement; decide
theorem w13 : Statement .w13 := by unfold Statement; decide
theorem w14 : Statement .w14 := by unfold Statement; decide
theorem w15 : Statement .w15 := by unfold Statement; decide
theorem w16 : Statement .w16 := by unfold Statement; decide
theorem w17 : Statement .w17 := by unfold Statement; decide
theorem w18 : Statement .w18 := by unfold Statement; decide
theorem x0 : Statement .x0 := by unfold Statement; decide
theorem x1 : Statement .x1 := by unfold Statement; decide
theorem x2 : Statement .x2 := by unfold Statement; decide
theorem x3 : Statement .x3 := by unfold Statement; decide
theorem stateAwaitingStatus : Statement .stateAwaitingStatus := by unfold Statement; decide
theorem stateAwaitingNote : Statement .stateAwaitingNote := by unfold Statement; decide
theorem stateAwaitingVelocity : Statement .stateAwaitingVelocity := by unfold Statement; decide
theorem regRhythmDisable : Statement .regRhythmDisable := by unfold Statement; decide
theorem regFreqLow (voice : Nibble) : Statement (.regFreqLow voice) := BitVec.isLt _
theorem regOctGate (voice : Nibble) : Statement (.regOctGate voice) := BitVec.isLt _
theorem regInstVol (voice : Nibble) : Statement (.regInstVol voice) := BitVec.isLt _
theorem eventOff (instrument : Nibble) (note : BitVec 7) : Statement (.eventOff instrument note) := BitVec.isLt _
theorem eventOn (instrument : Nibble) (note velocity : BitVec 7) : Statement (.eventOn instrument note velocity) := BitVec.isLt _

end Sys2Proof.Laws.EncodeFits
end

