-- ==== Sys2Proof/Tests/Slice0.lean ====
section
/-! SUPPORT. Tests: expected values are written out from the spec's encodings (30_encoding.md, opcode_table.json) and from its vectors
(95_test_vectors.md); and, for every obligation with hypotheses, a witness that meets them. -/

open Sys2Proof Sys2Proof.Machine

namespace Sys2Proof.Tests

/-! ## Small states -/

/-- The parameters of program P2 (95_test_vectors.md), with the three voices of section 4. -/
def prm : Params where
  tickW := 8
  tSettle := 1
  tAddrLatch := 2
  tDataLatch := 3
  tResetPark := 5
  tTick := 10
  csActive := .l
  icActive := .l
  idleDrive := .h
  parkA0 := .l
  parkD := 0x00#8
  noteOnNibble := 0x9#4
  noteOffNibble := 0x8#4
  nVoices := 3
  gateReg := .octGate
  freqTable := Vector.replicate 12 0#16

/-- The state after an earlier `write(0x0E, 0x00)` (section 3.2), tick 8. -/
def base : State where
  params := prm
  dec := ⟨.awaitingStatus, ⟨none, 0#4, 0#8, 0#8⟩, .off 0#8 0#4, false⟩
  bus := ⟨.idle, 0x0E#8, 0x00#8, 8⟩
  line := ⟨.idle, .h, .idle, 0x00#8, .deasserted⟩
  tick := 8
  port := ⟨none, none, false⟩
  chip := ⟨0x0E#8, [], 0, 4, none, 1⟩
  env := { Env.initial prm with owesChipReset := false }
  moves := []
  draws := 1

/-- BUS in a phase of `write(0x30, 0x1F)`, with these lines. -/
def inPhase (ph : Phase) (we : WeLine) (a0 : Level) (cs : CsLine) (d : Byte) : State :=
  { base with bus := ⟨ph, 0x30#8, 0x1F#8, 5⟩, line := ⟨we, a0, cs, d, .deasserted⟩ }

/-- The address window of that write, `n` ticks old. -/
def addressWindow (ph : Phase) (n : Nat) : State :=
  { inPhase ph .l .l .asserted 0x30#8 with
    bus := ⟨ph, 0x30#8, 0x1F#8, 8 - n⟩, chip := { base.chip with window := some ⟨n, true, true⟩ } }

/-- The data window of that write, `n` ticks old. -/
def dataWindow (ph : Phase) (n : Nat) : State :=
  { inPhase ph .l .h .asserted 0x1F#8 with
    bus := ⟨ph, 0x30#8, 0x1F#8, 8 - n⟩, chip := { base.chip with latch := 0x30#8, window := some ⟨n, true, true⟩ } }

/-- DEC with this state and buffer. -/
def decoder (q : DecState) (op : Option Opcode) (x : Nibble) (n v : Byte) : State :=
  { base with dec := ⟨q, ⟨op, x, n, v⟩, .off 0#8 0#4, false⟩ }

/-- The next state of an outcome. -/
def nextOf (o : Host.Outcome State Fault Refusal) : Option State :=
  match o with
  | .next t => some t
  | .fault _ => none
  | .refused _ => none

/-- `dec` after an instruction. -/
def decAfter (i : Instr) (s : State) : Option Dec := (nextOf (exec i s)).map (·.dec)

/-- The decoder's state, buffer and, where an event is emitted, that event (the vectors' "state after" and "event"). -/
def seen (i : Instr) (s : State) : Option (DecState × MsgBuf × Option NoteEvent) :=
  (decAfter i s).map (fun d => (d.state, d.buf, if d.evValid then some d.ev else none))

/-- The lines, the phase and `t0` after an instruction. -/
def busAfter (i : Instr) (s : State) : Option (Lines × Phase × Nat) :=
  (nextOf (exec i s)).map (fun t => (t.line, t.bus.phase, t.bus.t0))

/-! ## Well-formedness -/

theorem test_event_on_with_velocity_0_is_ill_formed : (Instr.eventOn 1#4 0x3C#7 0#7).wellFormed = false := by decide
theorem test_event_on_with_velocity_1_is_well_formed : (Instr.eventOn 1#4 0x3C#7 1#7).wellFormed = true := by decide
theorem test_regFreqLow_voice_9_of_9_is_out_of_range : (Instr.regFreqLow 9#4).voiceInRange 9 = false ∧ (Instr.regFreqLow 8#4).voiceInRange 9 = true := by decide
theorem test_regOctGate_voice_9_of_9_is_out_of_range : (Instr.regOctGate 9#4).voiceInRange 9 = false ∧ (Instr.regOctGate 8#4).voiceInRange 9 = true := by decide
theorem test_regInstVol_voice_9_of_9_is_out_of_range : (Instr.regInstVol 9#4).voiceInRange 9 = false ∧ (Instr.regInstVol 8#4).voiceInRange 9 = true := by decide

/-! ## Decoding: one written-out word for each row -/

theorem test_decode_noteOffStatus : decode .inputByte 0b10001010 = .ok (.noteOffStatus 0b1010#4) := by decide
theorem test_decode_noteOnStatus : decode .inputByte 0b10010011 = .ok (.noteOnStatus 0b0011#4) := by decide
theorem test_decode_unrecognisedStatusA : decode .inputByte 0b10100110 = .ok (.unrecognisedStatusA 0b0110#4) := by decide
theorem test_decode_unrecognisedStatusB : decode .inputByte 0b10110110 = .ok (.unrecognisedStatusB 0b0110#4) := by decide
theorem test_decode_unrecognisedStatusC : decode .inputByte 0b11000110 = .ok (.unrecognisedStatusC 0b0110#4) := by decide
theorem test_decode_unrecognisedStatusD : decode .inputByte 0b11010110 = .ok (.unrecognisedStatusD 0b0110#4) := by decide
theorem test_decode_unrecognisedStatusE : decode .inputByte 0b11100110 = .ok (.unrecognisedStatusE 0b0110#4) := by decide
theorem test_decode_unrecognisedStatusF : decode .inputByte 0b11110110 = .ok (.unrecognisedStatusF 0b0110#4) := by decide
theorem test_decode_dataByte : decode .inputByte 0b01000001 = .ok (.dataByte 0b1000001#7) := by decide
theorem test_decode_write : decode .busCommand 0b00011000000011111 = .ok (.write 0x30#8 0x1F#8) := by decide
theorem test_decode_write_of_the_vector : decode .busCommand 0x0301F = .ok (.write 0x30#8 0x1F#8) := by decide
theorem test_decode_chipReset : decode .busCommand 0x1ABCD = .ok (.chipReset 0xABCD#16) := by decide
theorem test_decode_phaseIdle : decode .busPhase 0b00000 = .ok (.phaseIdle) := by decide
theorem test_decode_w0 : decode .busPhase 0b00001 = .ok (.w0) := by decide
theorem test_decode_w1 : decode .busPhase 0b00010 = .ok (.w1) := by decide
theorem test_decode_w2 : decode .busPhase 0b00011 = .ok (.w2) := by decide
theorem test_decode_w3 : decode .busPhase 0b00100 = .ok (.w3) := by decide
theorem test_decode_w4 : decode .busPhase 0b00101 = .ok (.w4) := by decide
theorem test_decode_w5 : decode .busPhase 0b00110 = .ok (.w5) := by decide
theorem test_decode_w6 : decode .busPhase 0b00111 = .ok (.w6) := by decide
theorem test_decode_w7 : decode .busPhase 0b01000 = .ok (.w7) := by decide
theorem test_decode_w8 : decode .busPhase 0b01001 = .ok (.w8) := by decide
theorem test_decode_w9 : decode .busPhase 0b01010 = .ok (.w9) := by decide
theorem test_decode_w10 : decode .busPhase 0b01011 = .ok (.w10) := by decide
theorem test_decode_w11 : decode .busPhase 0b01100 = .ok (.w11) := by decide
theorem test_decode_w12 : decode .busPhase 0b01101 = .ok (.w12) := by decide
theorem test_decode_w13 : decode .busPhase 0b01110 = .ok (.w13) := by decide
theorem test_decode_w14 : decode .busPhase 0b01111 = .ok (.w14) := by decide
theorem test_decode_w15 : decode .busPhase 0b10000 = .ok (.w15) := by decide
theorem test_decode_w16 : decode .busPhase 0b10001 = .ok (.w16) := by decide
theorem test_decode_w17 : decode .busPhase 0b10010 = .ok (.w17) := by decide
theorem test_decode_w18 : decode .busPhase 0b10011 = .ok (.w18) := by decide
theorem test_decode_x0 : decode .busPhase 0b10100 = .ok (.x0) := by decide
theorem test_decode_x1 : decode .busPhase 0b10101 = .ok (.x1) := by decide
theorem test_decode_x2 : decode .busPhase 0b10110 = .ok (.x2) := by decide
theorem test_decode_x3 : decode .busPhase 0b10111 = .ok (.x3) := by decide
theorem test_decode_stateAwaitingStatus : decode .decState 0b00 = .ok (.stateAwaitingStatus) := by decide
theorem test_decode_stateAwaitingNote : decode .decState 0b01 = .ok (.stateAwaitingNote) := by decide
theorem test_decode_stateAwaitingVelocity : decode .decState 0b10 = .ok (.stateAwaitingVelocity) := by decide
theorem test_decode_regRhythmDisable : decode .targetAddress 0b00001110 = .ok (.regRhythmDisable) := by decide
theorem test_decode_regFreqLow : decode .targetAddress 0b00010011 = .ok (.regFreqLow 0b0011#4) := by decide
theorem test_decode_regOctGate : decode .targetAddress 0b00100101 = .ok (.regOctGate 0b0101#4) := by decide
theorem test_decode_regInstVol : decode .targetAddress 0b00111000 = .ok (.regInstVol 0b1000#4) := by decide
theorem test_decode_eventOff : decode .noteEvent 0b011110111111100000000 = .ok (.eventOff 0b1111#4 0b1111111#7) := by decide
theorem test_decode_eventOn : decode .noteEvent 0b110010000000100000010 = .ok (.eventOn 0b1001#4 0b0000001#7 0b0000010#7) := by decide
theorem test_phase_24_is_refused : decode .busPhase 0b11000 = .error .unreachablePhase := by decide
theorem test_unlisted_address_is_refused : decode .targetAddress 0b00001111 = .error .unlistedAddress := by decide
theorem test_off_with_velocity_is_refused : decode .noteEvent 0b011110111111100000001 = .error .notAnEvent := by decide
theorem test_note_with_bit_7_is_refused : decode .noteEvent 0b011111111111100000000 = .error .notAnEvent := by decide
theorem test_word_too_wide_is_refused : decode .busCommand 0x20000 = .error .tooWide ∧ decode .inputByte 0x100 = .error .tooWide := by decide
theorem test_table_word : decodeTableWord 8 0x93 = some (.noteOnStatus 3#4) ∧ decodeTableWord 24 0x0301F = some (.write 0x30#8 0x1F#8) ∧
    decodeTableWord 8 7 = some .w6 ∧ decodeTableWord 24 0x110101 = some (.eventOn 1#4 1#7 1#7) := by decide

/-! ## DEC: the single-step vectors of section 2 -/

theorem test_noteOnStatus_starts : seen (.noteOnStatus 3#4) (decoder .awaitingStatus none 0#4 0#8 0#8) =
    some (.awaitingNote, ⟨(some .noteOn), 3#4, 0#8, 0#8⟩, none) := by decide
theorem test_noteOnStatus_restarts : seen (.noteOnStatus 4#4) (decoder .awaitingNote (some .noteOn) 3#4 0#8 0#8) =
    some (.awaitingNote, ⟨(some .noteOn), 4#4, 0#8, 0#8⟩, none) := by decide
theorem test_noteOffStatus_starts : seen (.noteOffStatus 3#4) (decoder .awaitingStatus none 0#4 0#8 0#8) =
    some (.awaitingNote, ⟨(some .noteOff), 3#4, 0#8, 0#8⟩, none) := by decide
theorem test_noteOffStatus_drops_the_partial_message : seen (.noteOffStatus 4#4) (decoder .awaitingVelocity (some .noteOn) 3#4 0x30#8 0#8) =
    some (.awaitingNote, ⟨(some .noteOff), 4#4, 0#8, 0#8⟩, none) := by decide
theorem test_unrecognisedStatusA : seen (.unrecognisedStatusA 0#4) (decoder .awaitingNote (some .noteOn) 0#4 0x40#8 0x7F#8) =
    some (.awaitingStatus, ⟨none, 0#4, 0#8, 0#8⟩, none) := by decide
theorem test_unrecognisedStatusB : seen (.unrecognisedStatusB 2#4) (decoder .awaitingVelocity (some .noteOn) 2#4 0x46#8 0x30#8) =
    some (.awaitingStatus, ⟨none, 0#4, 0#8, 0#8⟩, none) := by decide
theorem test_unrecognisedStatusC : seen (.unrecognisedStatusC 5#4) (decoder .awaitingVelocity (some .noteOn) 3#4 0x30#8 0#8) =
    some (.awaitingStatus, ⟨none, 0#4, 0#8, 0#8⟩, none) := by decide
theorem test_unrecognisedStatusD : seen (.unrecognisedStatusD 0#4) (decoder .awaitingVelocity (some .noteOn) 3#4 0x30#8 0#8) =
    some (.awaitingStatus, ⟨none, 0#4, 0#8, 0#8⟩, none) := by decide
theorem test_unrecognisedStatusE : seen (.unrecognisedStatusE 3#4) (decoder .awaitingStatus none 0#4 0#8 0#8) =
    some (.awaitingStatus, ⟨none, 0#4, 0#8, 0#8⟩, none) := by decide
theorem test_unrecognisedStatusF : seen (.unrecognisedStatusF 15#4) (decoder .awaitingNote (some .noteOn) 3#4 0#8 0#8) =
    some (.awaitingStatus, ⟨none, 0#4, 0#8, 0#8⟩, none) := by decide
theorem test_dataByte_is_ignored_then_captured : seen (.dataByte 0x7F#7) (decoder .awaitingStatus none 0#4 0#8 0#8) =
    some (.awaitingStatus, ⟨none, 0#4, 0#8, 0#8⟩, none) ∧
    seen (.dataByte 0x30#7) (decoder .awaitingNote (some .noteOn) 3#4 0#8 0#8) =
    some (.awaitingVelocity, ⟨some .noteOn, 3#4, 0x30#8, 0#8⟩, none) := by decide
theorem test_dataByte_is_a_velocity : seen (.dataByte 0#7) (decoder .awaitingVelocity (some .noteOn) 3#4 0x30#8 0#8) =
    some (.awaitingNote, ⟨some .noteOn, 3#4, 0x30#8, 0#8⟩, some (.off 0x30#8 3#4)) ∧
    seen (.dataByte 1#7) (decoder .awaitingVelocity (some .noteOn) 3#4 0x30#8 0#8) =
    some (.awaitingNote, ⟨some .noteOn, 3#4, 0x30#8, 1#8⟩, some (.on 0x30#8 3#4 1#8)) ∧
    seen (.dataByte 0x55#7) (decoder .awaitingVelocity (some .noteOff) 3#4 0x30#8 0#8) =
    some (.awaitingNote, ⟨some .noteOff, 3#4, 0x30#8, 0x55#8⟩, some (.off 0x30#8 3#4)) := by decide

/-- A byte on the port. -/
def withByte (b : Byte) (s : State) : State := { s with port := { s.port with rx := some b } }

theorem test_stateAwaitingStatus_ignores : seen .stateAwaitingStatus (withByte 0x7F#8 (decoder .awaitingStatus none 0#4 0#8 0#8)) =
    some (.awaitingStatus, ⟨none, 0#4, 0#8, 0#8⟩, none) := by decide
theorem test_stateAwaitingNote_captures : seen .stateAwaitingNote (withByte 0x30#8 (decoder .awaitingNote (some .noteOn) 3#4 0#8 0#8)) =
    some (.awaitingVelocity, ⟨some .noteOn, 3#4, 0x30#8, 0#8⟩, none) := by decide
theorem test_stateAwaitingVelocity_emits : seen .stateAwaitingVelocity (withByte 0x01#8 (decoder .awaitingVelocity (some .noteOn) 3#4 0x30#8 0#8)) =
    some (.awaitingNote, ⟨some .noteOn, 3#4, 0x30#8, 1#8⟩, some (.on 0x30#8 3#4 1#8)) := by decide
theorem test_source_example_S1 : decRun prm .reset [0x90#8, 0x40#8, 0x00#8] =
    (⟨.awaitingNote, ⟨some .noteOn, 0#4, 0x40#8, 0x00#8⟩⟩, [.off 0x40#8 0#4]) := by decide
theorem test_source_example_S2 : decRun prm .reset [0x90#8, 0x40#8, 0x90#8, 0x41#8, 0x7F#8] =
    (⟨.awaitingNote, ⟨some .noteOn, 0#4, 0x41#8, 0x7F#8⟩⟩, [.on 0x41#8 0#4 0x7F#8]) := by decide
theorem test_source_example_S3 : decRun prm .reset [0x90#8, 0x40#8, 0x7F#8, 0x41#8, 0x7F#8] =
    (⟨.awaitingNote, ⟨some .noteOn, 0#4, 0x41#8, 0x7F#8⟩⟩, [.on 0x40#8 0#4 0x7F#8, .on 0x41#8 0#4 0x7F#8]) := by decide
theorem test_program_P1 : (decRun prm .reset [0x91#8, 0x3C#8, 0x64#8, 0x40#8, 0x50#8, 0x3C#8, 0x00#8, 0xF8#8, 0x40#8, 0x00#8, 0x81#8, 0x40#8, 0x00#8]).2 =
    [.on 0x3C#8 1#4 0x64#8, .on 0x40#8 1#4 0x50#8, .off 0x3C#8 1#4, .off 0x40#8 1#4] := by decide

/-! ## BUS: commands (section 3.4) and the line trace of section 3.2 -/

theorem test_write_is_accepted : (nextOf (exec (.write 0x21#8 0x14#8) base)).map (fun t => (t.bus, t.line)) =
    some (⟨.w0, 0x21#8, 0x14#8, 8⟩, ⟨.idle, .h, .idle, 0x00#8, .deasserted⟩) := by decide
theorem test_chipReset_is_accepted : (nextOf (exec (.chipReset 0xABCD#16) base)).map (fun t => (t.bus, t.line)) =
    some (⟨.x0, 0x0E#8, 0x00#8, 8⟩, ⟨.idle, .h, .idle, 0x00#8, .deasserted⟩) := by decide
theorem test_write_in_w6_is_refused : nextOf (exec (.write 0x21#8 0x14#8) (addressWindow .w6 1)) = none := by decide
theorem test_phaseIdle_without_a_command : (nextOf (exec .phaseIdle base)) = some base := by decide
theorem test_phaseIdle_accepts : (nextOf (exec .phaseIdle { base with port := ⟨none, some 0x0301F#17, false⟩ })).map (fun t => (t.bus, t.port)) =
    some (⟨.w0, 0x30#8, 0x1F#8, 8⟩, ⟨none, none, false⟩) := by decide
theorem test_w0 : busAfter .w0 (inPhase .w0 .idle .h .idle 0x00#8) = some (⟨.l, .h, .idle, 0x00#8, .deasserted⟩, .w1, 5) := by decide
theorem test_w1 : busAfter .w1 (inPhase .w1 .l .h .idle 0x00#8) = some (⟨.l, .l, .idle, 0x00#8, .deasserted⟩, .w2, 8) := by decide
theorem test_w2 : busAfter .w2 (inPhase .w2 .l .l .idle 0x00#8) = some (⟨.l, .l, .idle, 0x00#8, .deasserted⟩, .w3, 5) := by decide
theorem test_w3 : busAfter .w3 (inPhase .w3 .l .l .idle 0x00#8) = some (⟨.l, .l, .idle, 0x30#8, .deasserted⟩, .w4, 8) := by decide
theorem test_w4 : busAfter .w4 (inPhase .w4 .l .l .idle 0x30#8) = some (⟨.l, .l, .idle, 0x30#8, .deasserted⟩, .w5, 5) := by decide
theorem test_w5 : busAfter .w5 (inPhase .w5 .l .l .idle 0x30#8) = some (⟨.l, .l, .asserted, 0x30#8, .deasserted⟩, .w6, 8) := by decide
theorem test_w6 : busAfter .w6 (inPhase .w6 .l .l .asserted 0x30#8) = some (⟨.l, .l, .asserted, 0x30#8, .deasserted⟩, .w7, 5) := by decide
theorem test_w7 : busAfter .w7 (inPhase .w7 .l .l .asserted 0x30#8) = some (⟨.l, .l, .deasserted, 0x30#8, .deasserted⟩, .w8, 5) := by decide
theorem test_w8 : busAfter .w8 (inPhase .w8 .l .l .deasserted 0x30#8) = some (⟨.l, .h, .deasserted, 0x30#8, .deasserted⟩, .w9, 5) := by decide
theorem test_w9 : busAfter .w9 (inPhase .w9 .l .h .deasserted 0x30#8) = some (⟨.h, .h, .deasserted, 0x30#8, .deasserted⟩, .w10, 8) := by decide
theorem test_w10 : busAfter .w10 (inPhase .w10 .h .h .deasserted 0x30#8) = some (⟨.h, .h, .deasserted, 0x30#8, .deasserted⟩, .w11, 5) := by decide
theorem test_w11 : busAfter .w11 (inPhase .w11 .h .h .deasserted 0x30#8) = some (⟨.h, .h, .deasserted, 0x1F#8, .deasserted⟩, .w12, 5) := by decide
theorem test_w12 : busAfter .w12 (inPhase .w12 .h .h .deasserted 0x1F#8) = some (⟨.l, .h, .deasserted, 0x1F#8, .deasserted⟩, .w13, 8) := by decide
theorem test_w13 : busAfter .w13 (inPhase .w13 .l .h .deasserted 0x1F#8) = some (⟨.l, .h, .deasserted, 0x1F#8, .deasserted⟩, .w14, 5) := by decide
theorem test_w14 : busAfter .w14 (inPhase .w14 .l .h .deasserted 0x1F#8) = some (⟨.l, .h, .asserted, 0x1F#8, .deasserted⟩, .w15, 8) := by decide
theorem test_w15 : busAfter .w15 (inPhase .w15 .l .h .asserted 0x1F#8) = some (⟨.l, .h, .asserted, 0x1F#8, .deasserted⟩, .w16, 5) := by decide
theorem test_w16 : busAfter .w16 (inPhase .w16 .l .h .asserted 0x1F#8) = some (⟨.l, .h, .deasserted, 0x1F#8, .deasserted⟩, .w17, 5) := by decide
theorem test_w17 : busAfter .w17 (inPhase .w17 .l .h .deasserted 0x1F#8) = some (⟨.idle, .h, .deasserted, 0x1F#8, .deasserted⟩, .w18, 5) := by decide
theorem test_w18 : busAfter .w18 (inPhase .w18 .idle .h .deasserted 0x1F#8) = some (⟨.idle, .h, .idle, 0x1F#8, .deasserted⟩, .idle, 5) := by decide

/-- BUS in a phase of `CHIP_RESET`, the lines as after a write. -/
def inReset (ph : Phase) (ic : IcLine) : State :=
  { base with bus := ⟨ph, 0x30#8, 0x1F#8, 3⟩, line := ⟨.idle, .h, .idle, 0x1F#8, ic⟩ }

theorem test_x0 : busAfter .x0 (inReset .x0 .deasserted) = some (⟨.idle, .h, .idle, 0x1F#8, .asserted⟩, .x1, 3) := by decide
theorem test_x1_parks : busAfter .x1 (inReset .x1 .asserted) = some (⟨.idle, .l, .idle, 0x00#8, .asserted⟩, .x2, 8) := by decide
theorem test_x2_after_five_ticks : busAfter .x2 (inReset .x2 .asserted) = some (⟨.idle, .h, .idle, 0x1F#8, .asserted⟩, .x3, 3) := by decide
theorem test_x2_holds_at_four : nextOf (exec .x2 { inReset .x2 .asserted with tick := 7 }) = some { inReset .x2 .asserted with tick := 7 } := by decide
theorem test_x3_releases : busAfter .x3 (inReset .x3 .asserted) = some (⟨.idle, .h, .idle, 0x1F#8, .deasserted⟩, .idle, 3) := by decide

/-! ## The wait vectors of section 3.1: width, `t0`, `n`, tick, and whether the wait ends -/

/-- Whether `Wait(n)` in `W2` ends. -/
def waitEnds (width t0 n tick : Nat) : Option Bool :=
  (nextOf (exec .w2 { base with params := { prm with tickW := width, tSettle := n }, tick := tick, bus := ⟨.w2, 0#8, 0#8, t0⟩ })).map
    (fun t => t.bus.phase == .w3)

theorem test_wait_vectors : waitEnds 8 100 1 100 = some false ∧
    waitEnds 8 100 1 101 = some true ∧
    waitEnds 8 100 0 100 = some true ∧
    waitEnds 8 250 10 255 = some false ∧
    waitEnds 8 250 10 3 = some false ∧
    waitEnds 8 250 10 4 = some true ∧
    waitEnds 8 250 10 200 = some true ∧
    waitEnds 8 250 10 249 = some true ∧
    waitEnds 8 250 10 250 = some false ∧
    waitEnds 16 65535 2 0 = some false ∧
    waitEnds 16 65535 2 1 = some true := by decide
theorem test_w4_holds : (nextOf (exec .w4 { inPhase .w4 .l .l .idle 0x30#8 with tick := 5 })).map (·.bus.phase) = some .w4 := by decide
theorem test_w10_holds : (nextOf (exec .w10 { inPhase .w10 .h .h .deasserted 0x30#8 with tick := 5 })).map (·.bus.phase) = some .w10 := by decide
theorem test_w13_holds : (nextOf (exec .w13 { inPhase .w13 .l .h .deasserted 0x1F#8 with tick := 5 })).map (·.bus.phase) = some .w13 := by decide
theorem test_w6_holds_at_one : (nextOf (exec .w6 (addressWindow .w6 1))).map (·.bus.phase) = some .w6 := by decide
theorem test_w15_holds_at_two : (nextOf (exec .w15 (dataWindow .w15 2))).map (·.bus.phase) = some .w15 := by decide

/-! ## The observer, the target addresses, the events -/

theorem test_w7_latches_the_address : (nextOf (exec .w7 (addressWindow .w7 2))).map (fun t => (t.chip.latch, t.chip.window)) = some (0x30#8, none) := by decide
theorem test_w16_writes_at_the_end_of_a_good_window : ∃ t, exec .w16 (dataWindow .w16 3) = .next t ∧ chipRead t 0x30#8 = 0x1F#8 ∧
    chipRead t 0x31#8 = chipRead base 0x31#8 := ⟨_, rfl, Memory.read_write 0 [] 0x30 0x30 0x1F#8, Memory.read_write 0 [] 0x30 0x31 0x1F#8⟩
theorem test_w16_forgets_at_the_end_of_a_short_window : (nextOf (exec .w16 (dataWindow .w16 2))).map (fun t => (t.chip.reg, t.chip.regDraw)) = some ([], 1) := by decide
theorem test_regInstVol_latches : (nextOf (exec (.regInstVol 0#4) (addressWindow .w7 2))).map (·.chip.latch) = some 0x30#8 := by decide
theorem test_regFreqLow_latches : (nextOf (exec (.regFreqLow 8#4) { addressWindow .w7 2 with line := ⟨.l, .l, .asserted, 0x18#8, .deasserted⟩ })).map (·.chip.latch) = some 0x18#8 := by decide
theorem test_regOctGate_latches : (nextOf (exec (.regOctGate 0#4) { addressWindow .w7 2 with line := ⟨.l, .l, .asserted, 0x20#8, .deasserted⟩ })).map (·.chip.latch) = some 0x20#8 := by decide
theorem test_regRhythmDisable_latches : (nextOf (exec .regRhythmDisable { addressWindow .w7 2 with line := ⟨.l, .l, .asserted, 0x0E#8, .deasserted⟩, chip := ⟨0x77#8, [], 0, 0, some ⟨2, true, true⟩, 1⟩ })).map (·.chip.latch) = some 0x0E#8 := by decide
theorem test_regInstVol_outside_the_end_of_the_window : nextOf (exec (.regInstVol 0#4) (addressWindow .w6 1)) = some (addressWindow .w6 1) := by decide

/-- What the vectors of section 4 list: the cursor, the slots that are on when the writes are done, the writes issued. -/
def hostSeen (o : Option State) : Option (Nat × List (Byte × Bool) × List CmdWord) :=
  o.map (fun t => (t.env.cursor, t.env.settle.table.map (fun v => (v.note, v.on)), commandsOf t.env.acts))

/-- The host in the third row of section 4: slot 1 sounds note 62, the cursor is 2. -/
def hostState : State :=
  { base with env := { base.env with cursor := 2, table := [⟨60#8, 0#4, false⟩, ⟨62#8, 0#4, true⟩, ⟨0#8, 0#4, false⟩] } }

theorem test_eventOn_claims_slot_2 : hostSeen (nextOf (exec (.eventOn 0#4 64#7 100#7) hostState)) =
    some (0, [(60#8, false), (62#8, true), (64#8, true)], [writeWord 0x32#8 (Config.instVol 0#4 100#8),
      writeWord 0x12#8 (Config.freqReg 64#8 0#16 5#3), writeWord 0x22#8 (Config.octGateReg 64#8 0#16 5#3 true)]) := rfl
theorem test_eventOn_exhausted : hostSeen (nextOf (exec (.eventOn 0#4 67#7 100#7)
      { base with env := { base.env with cursor := 1, table := List.replicate 3 ⟨62#8, 0#4, true⟩ } })) =
    some (2, [(62#8, true), (62#8, true), (62#8, true)], []) := by decide
theorem test_eventOff_releases_slot_1 : hostSeen (nextOf (exec (.eventOff 0#4 62#7) hostState)) =
    some (2, [(60#8, false), (62#8, false), (0#8, false)], [writeWord 0x21#8 (Config.gateOffReg 62#8 0#4 true)]) := rfl
theorem test_eventOff_of_another_instrument : hostSeen (nextOf (exec (.eventOff 1#4 62#7) hostState)) =
    some (2, [(60#8, false), (62#8, true), (0#8, false)], []) := by decide
theorem test_killAll_writes_every_slot : commandsOf (killAll prm hostState.env).acts = [writeWord 0x20#8 (Config.gateOffReg 60#8 0#4 false),
    writeWord 0x21#8 (Config.gateOffReg 62#8 0#4 true), writeWord 0x22#8 (Config.gateOffReg 0#8 0#4 false)] := rfl

/-- The host with slot 2 still to be claimed, its first write just over. -/
def claiming : State := { hostState with env := { hostState.env with acts := [.claim 2 64#8 0#4] }, moves := [.loop] }

/-- What a step leaves of the table and of the acts. -/
def tableAfter (s : State) : Option (List (Byte × Bool) × Nat) :=
  (nextOf (step s)).map (fun t => (t.env.table.map (fun v => (v.note, v.on)), t.env.acts.length))

theorem test_slot_is_claimed_when_the_write_is_over : tableAfter claiming = some ([(60#8, false), (62#8, true), (64#8, true)], 0) ∧
    tableAfter { claiming with bus := { claiming.bus with phase := .w18 } } = some ([(60#8, false), (62#8, true), (0#8, false)], 1) := by decide
theorem test_first_write_waits_for_the_chip_reset : (nextOf (step { base with moves := [.loop], env := { Env.initial prm with acts := [.command 0x0301F#17] } })).map
    (fun t => (t.port.cmd, t.env.acts, t.env.owesChipReset)) = some (some 0x10000#17, [.command 0x0301F#17], false) := by decide
theorem test_note_mapper_vectors : [0#8, 11#8, 12#8, 59#8, 60#8, 95#8, 96#8, 127#8].map (fun n => ((semitone n).val, octave n)) =
    [(0, 0), (11, 0), (0, 1), (11, 4), (0, 5), (11, 7), (0, 7), (7, 7)] := by decide

/-! ## Steps -/

theorem test_reset_in_the_data_window_is_a_bad_cycle : (nextOf (step { dataWindow .w15 1 with moves := [.rstAssert] })).map (fun t => (t.bus.phase, t.line, t.chip.reg, t.chip.regDraw)) =
    some (.idle, ⟨.idle, .l, .idle, 0x00#8, .asserted⟩, [], 1) := by decide
theorem test_a_command_in_w6_waits : (nextOf (step { addressWindow .w6 1 with moves := [.bus], port := ⟨none, some 0x02114#17, false⟩ })).map (fun t => (t.bus, t.port.cmd)) =
    some (⟨.w6, 0x30#8, 0x1F#8, 7⟩, some 0x02114#17) := by decide
theorem test_tick_wraps : (nextOf (step { base with tick := 255 })).map (·.tick) = some 0 := by decide
theorem test_placed_word_runs : (nextOf (step (base.withFetchWord 8 0x93))).map (·.dec.state) = some .awaitingNote ∧
    (nextOf (step (base.withFetchWord 24 0x0301F))).map (·.bus) = some ⟨.w0, 0x30#8, 0x1F#8, 8⟩ := by decide

/-! ## Witnesses: states and operands that meet the hypotheses of the obligations -/

theorem busInv_base : BusInv base := ⟨by decide, by decide, ⟨rfl, rfl⟩, trivial, rfl, trivial, by decide⟩

theorem busInv_w7 : BusInv (addressWindow .w7 2) :=
  ⟨by decide, by decide, ⟨rfl, rfl, rfl, rfl⟩, trivial, ⟨rfl, rfl, by decide⟩, trivial, by decide⟩

theorem busInv_w16 : BusInv (dataWindow .w16 3) :=
  ⟨by decide, by decide, ⟨rfl, rfl, rfl, rfl⟩, trivial, ⟨rfl, rfl, by decide⟩, fun _ => rfl, by decide⟩

theorem decInv_base : DecInv base := ⟨by decide, by decide, by decide, by decide⟩

theorem admissible_prm : prm.admissible := by unfold Params.admissible; decide

/-- `base` with these moves to come. -/
def moving (ms : List Move) : State := { base with moves := ms }

theorem witness_DecodeUndoesEncode : (Instr.eventOn 15#4 127#7 1#7).wellFormed = true := by decide

theorem witness_EventPortPacksItsFields : (NoteEvent.on 0x7F#8 15#4 0x01#8).emittable = true ∧ (NoteEvent.off 0x00#8 0#4).emittable = true := by decide

theorem witness_PhaseNumbersFollowTheSequence : Phase.w17 ≠ .idle ∧ Phase.w17 ≠ .w18 ∧ Phase.w17 ≠ .x3 ∧ Phase.x2 ≠ .idle ∧ Phase.x2 ≠ .w18 ∧ Phase.x2 ≠ .x3 := by decide

theorem witness_StepRunsTheDecodedInstruction_byte : let s := withByte 0xFF#8 (moving [.dec])
    s.moves = [.dec] ∧ s.port.rst = false ∧ s.dec.evValid = false ∧
    ∃ b, s.port.rx = some b ∧ decode .inputByte b.toNat = .ok (.unrecognisedStatusF 15#4) :=
  ⟨rfl, rfl, rfl, 0xFF#8, rfl, by decide⟩

theorem witness_StepRunsTheDecodedInstruction_command : let s := { moving [.bus] with port := ⟨none, some 0x0FFFF#17, false⟩ }
    s.moves = [.bus] ∧ s.port.rst = false ∧ s.bus.phase = .idle ∧
    ∃ w, s.port.cmd = some w ∧ decode .busCommand w.toNat = .ok (.write 0xFF#8 0xFF#8) :=
  ⟨rfl, rfl, rfl, 0x0FFFF#17, rfl, by decide⟩

theorem witness_StepRunsTheDecodedInstruction_phase : let s := { inReset .x3 .asserted with moves := [.bus] }
    s.moves = [.bus] ∧ s.port.rst = false ∧ (s.bus.phase ≠ .idle ∨ s.port.cmd = none) ∧
    decode .busPhase s.bus.phase.number = .ok .x3 := by decide

theorem witness_StepRunsTheDecodedInstruction_idle : let s := moving [.bus]
    s.moves = [.bus] ∧ s.port.rst = false ∧ (s.bus.phase ≠ .idle ∨ s.port.cmd = none) ∧
    decode .busPhase s.bus.phase.number = .ok .phaseIdle := by decide

theorem witness_StepRunsTheDecodedInstruction_state : let s := { decoder .awaitingVelocity (some .noteOn) 3#4 0x30#8 0#8 with moves := [.dec] }
    s.moves = [.dec] ∧ s.port.rst = false ∧ (s.port.rx = none ∨ s.dec.evValid = true) ∧
    decode .decState (encode s.dec.state.instr) = .ok .stateAwaitingVelocity := by decide

theorem witness_StepRunsTheDecodedInstruction_address : let s := { addressWindow .w7 2 with moves := [.address] }
    s.moves = [.address] ∧ s.port.rst = false ∧ s.bus.phase = .w7 ∧ decode .targetAddress s.line.d.toNat = .ok (.regInstVol 0#4) := by decide

/-- An `On` event pending. -/
def pending : State := { base with dec := { base.dec with ev := .on 0x3C#8 1#4 0x7F#8, evValid := true } }

theorem witness_StepRunsTheDecodedInstruction_event : let s := { pending with moves := [.takeEvent] }
    s.moves = [.takeEvent] ∧ s.dec.evValid = true ∧
    decode .noteEvent s.dec.ev.pack.toNat = .ok (.eventOn 1#4 0x3C#7 0x7F#7) := by decide

theorem witness_EveryStepAnswersANextState : base.moves = [] := rfl

theorem witness_OnlyBusMovesAndResetTouchTheBus : (∃ t, step (moving [.dec]) = .next t) ∧
    ¬ (moving [.dec]).busTurn ∧ (moving [.dec]).notResetting ∧ (moving [.dec]).tickNext = false :=
  ⟨⟨_, rfl⟩, by unfold State.busTurn; decide, by unfold State.notResetting; decide, by decide⟩

theorem witness_OnlyDecMovesTakesAndResetTouchTheDecoder : (∃ t, step (moving [.bus]) = .next t) ∧ (moving [.bus]).notResetting ∧
    (moving [.bus]).moves.head? ≠ some .dec ∧ (moving [.bus]).moves.head? ≠ some .takeEvent ∧
    (moving [.bus]).moves.head? ≠ some .loop :=
  ⟨⟨_, rfl⟩, by unfold State.notResetting; decide, by decide, by decide, by decide⟩

theorem witness_OnlyDecMoves_evValid : ∃ t, step { pending with moves := [.bus] } = .next t ∧ t.dec.evValid = true := ⟨_, rfl, rfl⟩

theorem witness_OnlyDecMoves_matrix : let s := { moving [.handByte] with env := { base.env with mode := .matrix, uart := [0x90#8] } }
    s.env.mode = .matrix ∧ s.port.rx = none ∧ s.notResetting ∧ ∃ t, step s = .next t :=
  ⟨rfl, rfl, by unfold State.notResetting; decide, _, rfl⟩

theorem witness_BlockResetPutsEveryElementAtItsResetValue : { dataWindow .w15 1 with moves := [.rstAssert] }.moves = .rstAssert :: [] := rfl

theorem witness_EveryStepKeepsTheBusInvariant : BusInv { dataWindow .w16 3 with moves := [.bus] } ∧
    ∃ t, step { dataWindow .w16 3 with moves := [.bus] } = .next t := ⟨busInv_w16, _, rfl⟩

theorem witness_EveryStepKeepsTheDecoderInvariant : DecInv (withByte 0x93#8 (moving [.dec])) ∧
    ∃ t, step (withByte 0x93#8 (moving [.dec])) = .next t := ⟨decInv_base, _, rfl⟩

/-- The block held in reset. -/
def held : State := { base with line := Lines.atReset prm, port := ⟨none, none, true⟩, moves := [.bus] }

theorem witness_BlockReset_release : { held with moves := [.rstRelease] }.moves = .rstRelease :: [] ∧ held.port.rst = true := ⟨rfl, rfl⟩

theorem witness_BlockStaysAtResetWhileRstIsAsserted : RstInv held ∧ held.port.rst = true ∧ ∃ t, step held = .next t :=
  ⟨fun _ => ⟨rfl, rfl, rfl, rfl, rfl⟩, rfl, _, rfl⟩

theorem witness_EveryStepKeepsTheHostInvariant : 1 ≤ (moving [.loop]).params.nVoices ∧ EnvInv (moving [.loop]) ∧
    ∃ t, step (moving [.loop]) = .next t := ⟨by decide, ⟨by decide, by decide, by decide⟩, _, rfl⟩

theorem witness_EveryStepKeepsTheHostInvariant_owing : let s := { moving [.loop] with env := { Env.initial prm with acts := [.command 0x0301F#17] } }
    EnvInv s ∧ s.env.owesChipReset = true ∧ ∃ t, step s = .next t ∧ t.env.owesChipReset = false := ⟨⟨by decide, by decide, by decide⟩, rfl, _, rfl, rfl⟩

theorem witness_RecognisedStatusByteStartsItsMessage :
    ((Instr.noteOnStatus 15#4).byte? = some 0x9F#8 ∧ 128 ≤ (0x9F#8).toNat ∧ base.dec.evValid = false ∧
      (0x9F#8).toNat / 16 = base.params.noteOnNibble.toNat) ∧
    ((Instr.noteOffStatus 0#4).byte? = some 0x80#8 ∧ 128 ≤ (0x80#8).toNat ∧ (0x80#8).toNat / 16 = base.params.noteOffNibble.toNat ∧
      base.params.noteOffNibble ≠ base.params.noteOnNibble) := by decide

theorem witness_UnrecognisedStatusByteResetsTheDecoder : (Instr.unrecognisedStatusA 0#4).byte? = some 0xA0#8 ∧
    128 ≤ (0xA0#8).toNat ∧ base.dec.evValid = false ∧ (0xA0#8).toNat / 16 ≠ base.params.noteOnNibble.toNat ∧
    (0xA0#8).toNat / 16 ≠ base.params.noteOffNibble.toNat := by decide

theorem witness_MalformedByteIsAbsorbed : ((Instr.unrecognisedStatusF 15#4).byte? = some 0xFF#8 ∧ base.dec.evValid = false ∧
      isMalformed base.params .awaitingVelocity 0xFF#8 = true) ∧
    ((Instr.dataByte 0x7F#7).byte? = some 0x7F#8 ∧ isMalformed base.params base.dec.state 0x7F#8 = true) := by decide

theorem witness_StatusRowsUnderTheDefaultNibbles : base.params.noteOnNibble = 0x9#4 ∧ base.params.noteOffNibble = 0x8#4 ∧
    base.dec.evValid = false ∧ Instr.unrecognisedStatusF 0#4 ∈ [Instr.unrecognisedStatusA 0#4, .unrecognisedStatusB 0#4,
      .unrecognisedStatusC 0#4, .unrecognisedStatusD 0#4, .unrecognisedStatusE 0#4, .unrecognisedStatusF 0#4] := by decide

theorem witness_StatusByteIsHandledAlikeInEveryState : (Instr.noteOffStatus 0#4).byte? = some 0x80#8 ∧ 128 ≤ (0x80#8).toNat ∧
    base.dec.evValid = false := by decide

theorem witness_DataByteIsIgnoredOrCaptured : base.dec.evValid = false ∧ base.dec.state = .awaitingStatus ∧
    (decoder .awaitingNote (some .noteOff) 3#4 0#8 0#8).dec.evValid = false ∧
    (decoder .awaitingNote (some .noteOff) 3#4 0#8 0#8).dec.state = .awaitingNote := by decide

theorem witness_VelocityByteEmitsItsEvent :
    (let s := decoder .awaitingVelocity (some .noteOn) 3#4 0x30#8 0#8
     s.dec.evValid = false ∧ s.dec.state = .awaitingVelocity ∧ s.dec.buf.opcode = some .noteOn ∧ (1#7 ≠ 0#7)) ∧
    (let s := decoder .awaitingVelocity (some .noteOff) 3#4 0x30#8 0#8
     s.dec.evValid = false ∧ s.dec.state = .awaitingVelocity ∧ s.dec.buf.opcode = some .noteOff) := by decide

theorem witness_ByteWaitsWhileAnEventWaits : pending.dec.evValid = true ∧ (Instr.dataByte 0#7).byte?.isSome = true ∧
    Instr.stateAwaitingNote = DecState.awaitingNote.instr := by decide

theorem witness_DecoderStateRowsTakeThePresentedByte : (withByte 0x80#8 base).port.rx = some 0x80#8 ∧ base.port.rx = none := by decide

theorem witness_DecoderStateRowsFollowTheirOwnRules : (withByte 0x7F#8 base).port.rx = some (dataByteOf 0x7F#7) ∧
    (withByte 0x7F#8 base).dec.evValid = false := by decide

theorem witness_FullMessageResynchronises : prm.noteOnNibble.getLsbD 3 = true ∧ prm.noteOffNibble.getLsbD 3 = true ∧
    prm.noteOffNibble ≠ prm.noteOnNibble := by decide

theorem witness_CommandIsAcceptedInIdle : base.bus.phase = .idle := rfl

theorem witness_CommandWhileBusyIsNeitherAcceptedNorStored : let s := { addressWindow .w6 1 with moves := [.bus], port := ⟨none, some 0x02114#17, false⟩ }
    s.bus.phase ≠ .idle ∧ s.moves = [.bus] ∧ s.port.cmd = some 0x02114#17 := by decide

theorem witness_CommandIsHeld : { moving [.hostInit] with port := ⟨none, some 0x02114#17, false⟩ }.port.cmd = some 0x02114#17 ∧
    ∃ t, step { moving [.hostInit] with port := ⟨none, some 0x02114#17, false⟩ } = .next t := ⟨rfl, _, rfl⟩

theorem witness_IdlePhaseHasNoMicroStep : base.port.cmd = none ∧ base.bus.phase = .idle ∧
    { base with port := ⟨none, some 0x10000#17, false⟩ }.port.cmd = some 0x10000#17 ∧ (addressWindow .w6 1).bus.phase ≠ .idle := by decide

theorem witness_ChipSelectMicroSteps : (inPhase .w5 .l .l .idle 0x30#8).line.cs ≠ .asserted ∧
    (inPhase .w14 .l .h .deasserted 0x1F#8).line.cs ≠ .asserted ∧ (inPhase .w18 .idle .h .deasserted 0x1F#8).line.cs ≠ .asserted := by decide

theorem witness_AddressWindowSetsTheLatch : BusInv (addressWindow .w7 2) ∧ (addressWindow .w7 2).bus.phase = .w7 ∧
    (addressWindow .w7 2).line.ic = .deasserted := ⟨busInv_w7, rfl, rfl⟩

theorem witness_DataWindowWritesTheAddressedRegister : BusInv (dataWindow .w16 3) ∧ (dataWindow .w16 3).bus.phase = .w16 ∧
    (dataWindow .w16 3).line.ic = .deasserted := ⟨busInv_w16, rfl, rfl⟩

theorem witness_WindowsHaveNoEffectOnATargetInReset : (inReset .w7 .asserted).line.ic = .asserted := rfl

/-- `W2` of a write at tick 3, `t0` 250: nine ticks have elapsed. -/
def nineTicks : State := { base with tick := 3, bus := ⟨.w2, 0#8, 0#8, 250⟩ }

theorem witness_WaitEndsExactlyWhenItsTicksHaveElapsed : nineTicks.tick < 2 ^ nineTicks.params.tickW ∧
    nineTicks.bus.t0 < 2 ^ nineTicks.params.tickW ∧
    ((9 : Int) = ((nineTicks.tick : Int) - (nineTicks.bus.t0 : Int)) % (2 ^ nineTicks.params.tickW : Int)) := by decide

theorem witness_WaitEnds_at_the_boundary : let s := fun n : Nat => { nineTicks with params := { prm with tSettle := n, tAddrLatch := n, tDataLatch := n, tResetPark := n } }
    (((s 9).params.tSettle : Int) ≤ 9 ∧ ((s 9).params.tAddrLatch : Int) ≤ 9 ∧ ((s 9).params.tDataLatch : Int) ≤ 9 ∧ ((s 9).params.tResetPark : Int) ≤ 9) ∧
    ((9 : Int) < ((s 10).params.tSettle : Int) ∧ (9 : Int) < ((s 10).params.tAddrLatch : Int) ∧ (9 : Int) < ((s 10).params.tDataLatch : Int) ∧
      (9 : Int) < ((s 10).params.tResetPark : Int)) := by decide

/-- `nineTicks`, and BUS's turn comes after a byte of the UART and one more tick. -/
def polled : State := { nineTicks with moves := [.receive 0#8, .tick, .bus, .tick] }

theorem witness_WaitEnds_polled : polled.tick < 2 ^ polled.params.tickW ∧ polled.bus.t0 < 2 ^ polled.params.tickW ∧
    polled.bus.phase.wait? polled.params = some 1 ∧ polled.port.rst = false ∧
    polled.moves = [.receive 0#8, .tick] ++ .bus :: [.tick] ∧ (∀ m ∈ [Move.receive 0#8, .tick], m ≠ .bus ∧ m ≠ .rstAssert) ∧
    Polled polled := by unfold Polled; decide

theorem witness_ChipResetMicroSteps : (inReset .x1 .asserted).line.cs ≠ .asserted := by decide

theorem witness_PhaseLeavesItsOrderOnlyByReset : ∃ t, step { inReset .x3 .asserted with moves := [.bus] } = .next t := ⟨_, rfl⟩

theorem witness_ChipSelectWindowsKeepTheirLines : let s := { addressWindow .w7 2 with moves := [.bus] }
    BusInv s ∧ s.notResetting ∧ s.line.cs = .asserted ∧ ∃ t, step s = .next t :=
  ⟨busInv_w7, by unfold State.notResetting; decide, rfl, _, rfl⟩

theorem witness_ChipSelectWindows_dataChanges : let s := { inPhase .w11 .h .h .deasserted 0x30#8 with moves := [.bus], chip := { base.chip with latch := 0x30#8 } }
    BusInv s ∧ s.notResetting ∧ ∃ t, step s = .next t ∧ t.line.d ≠ s.line.d :=
  ⟨⟨by decide, by decide, ⟨rfl, rfl, rfl, rfl⟩, trivial, rfl, by intro _; decide, by decide⟩,
    by unfold State.notResetting; decide, _, rfl, by decide⟩

/-- The address window of a write, one of its two ticks come. -/
theorem busInv_w6 : BusInv (addressWindow .w6 1) :=
  ⟨by decide, by decide, ⟨rfl, rfl, rfl, rfl⟩, trivial, ⟨rfl, rfl, by decide⟩, trivial, by decide⟩

theorem witness_WaitsHangWithoutTicks : (addressWindow .w6 1).tick < 2 ^ (addressWindow .w6 1).params.tickW ∧
    (addressWindow .w6 1).bus.t0 < 2 ^ (addressWindow .w6 1).params.tickW ∧
    (addressWindow .w6 1).bus.phase.wait? (addressWindow .w6 1).params = some 2 ∧ elapsed (addressWindow .w6 1) < 2 ∧
    BusInv (addressWindow .w6 1) ∧ (addressWindow .w6 1).bus.phase = .w6 ∧
    (∀ k : Nat, (fun _ : Nat => Move.bus) k ≠ .rstAssert) ∧ ∀ k : Nat, (fun _ : Nat => Move.bus) k ≠ .tick :=
  ⟨by decide, by decide, rfl, by decide, busInv_w6, rfl, fun _ => Move.noConfusion, fun _ => Move.noConfusion⟩

/-- BUS and the tick source by turns. -/
def byTurns (k : Nat) : Move := if k % 2 = 0 then .bus else .tick

theorem byTurns_fair : TickFair byTurns :=
  (tickFair_iff byTurns).2 fun k => ⟨2 * k + 1, by omega, if_neg (by omega)⟩

theorem byTurns_notStarved : BusNotStarved prm byTurns := by
  intro i len hno n hn
  have hlen : len ≤ 1 := by
    apply Nat.le_of_not_lt
    intro hl
    rcases Nat.mod_two_eq_zero_or_one i with h | h
    · exact hno 0 (by omega) (if_pos h)
    · exact hno 1 hl (if_pos (by omega))
  have := ticksAmong_le byTurns i len
  have hp : n ≤ 5 := (show ∀ n ∈ [prm.tSettle, prm.tAddrLatch, prm.tDataLatch, prm.tResetPark], n ≤ 5 by decide) n hn
  have hw : 2 ^ prm.tickW = 256 := rfl
  omega

theorem witness_CommandsEndWithFairTicks : (addressWindow .w6 1).tick < 2 ^ (addressWindow .w6 1).params.tickW ∧
    (addressWindow .w6 1).bus.t0 < 2 ^ (addressWindow .w6 1).params.tickW ∧ (addressWindow .w6 1).port.rst = false ∧
    (addressWindow .w6 1).bus.phase.wait? (addressWindow .w6 1).params = some 2 ∧
    (∀ k, byTurns k ≠ .rstAssert) ∧ TickFair byTurns ∧ BusNotStarved (addressWindow .w6 1).params byTurns :=
  ⟨by decide, by decide, rfl, rfl, fun k => by unfold byTurns; split <;> decide, byTurns_fair, byTurns_notStarved⟩

theorem witness_NoStepPaysMoreThanOneTick : nineTicks.tick < 2 ^ nineTicks.params.tickW ∧
    nineTicks.bus.t0 < 2 ^ nineTicks.params.tickW ∧ nineTicks.notResetting ∧ ∃ t, step nineTicks = .next t :=
  ⟨by decide, by decide, by unfold State.notResetting; decide, _, rfl⟩

theorem witness_OnlyDataWindowsAndResetsChangeTheMemory : BusInv (addressWindow .w7 2) ∧
    (Instr.w7.format = .busPhase → Instr.w7 = (addressWindow .w7 2).bus.phase.instr) ∧ Instr.w7 ≠ .w16 ∧ Instr.w7 ≠ .x0 ∧
    Instr.w7 ≠ .x3 ∧ ∃ t, exec .w7 (addressWindow .w7 2) = .next t :=
  ⟨busInv_w7, fun _ => rfl, by decide, by decide, by decide, _, rfl⟩

theorem witness_OnlyDataWindows_otherFormats : BusInv base ∧ (Instr.chipReset 0#16).format ≠ .busPhase ∧
    ∃ t, exec (.chipReset 0#16) base = .next t := ⟨busInv_base, by decide, _, rfl⟩

theorem witness_WriteRunsToItsEffect :
    let s := { base with port := ⟨none, some (writeWord 0xFF#8 0xFF#8), false⟩, moves := writeSchedule prm }
    BusInv s ∧ s.params.admissible ∧ s.bus.phase = .idle ∧ s.port.rst = false ∧ s.line.ic = .deasserted ∧
    s.port.cmd = some (writeWord 0xFF#8 0xFF#8) ∧ s.moves = writeSchedule s.params ++ [] :=
  ⟨busInv_base, admissible_prm, rfl, rfl, rfl, rfl, by decide⟩

theorem witness_ChipResetRunsToTheReleasedTarget :
    let s := { base with port := ⟨none, some (chipResetWord 0xABCD#16), false⟩, moves := chipResetSchedule prm }
    BusInv s ∧ s.params.admissible ∧ s.bus.phase = .idle ∧ s.port.rst = false ∧
    s.port.cmd = some (chipResetWord 0xABCD#16) ∧ s.moves = chipResetSchedule s.params ++ [] :=
  ⟨busInv_base, admissible_prm, rfl, rfl, rfl, by decide⟩

theorem witness_ResetsOfTheTargetLeaveItUnknown :
    ({ dataWindow .w15 1 with moves := [.rstAssert] }.moves = [.rstAssert] ∧ (dataWindow .w15 1).line.cs = .asserted) ∧
    ((moving [.rstAssert]).moves = [.rstAssert] ∧ (moving [.rstAssert]).line.cs ≠ .asserted) := by decide

theorem witness_TickSourceOnlyCounts : (moving [.tick]).moves = .tick :: [] := by decide

theorem witness_DecoderAndSequencerCommute : (Instr.dataByte 0x7F#7).byte?.isSome = true := by decide

theorem witness_ObserverNeverFeedsBack : ∃ t, step { dataWindow .w16 3 with moves := [.bus] } = .next t := ⟨_, rfl⟩

theorem witness_TargetLatches_goodAddressWindow : let s := addressWindow .w7 2
    (Instr.regInstVol 0#4).address? = some 0x30#8 ∧ s.bus.phase = .w7 ∧ s.line.d = 0x30#8 ∧ s.line.cs = .asserted ∧
    s.line.ic = .deasserted ∧ s.chip.window = some ⟨2, true, true⟩ ∧ s.line.we = .l ∧ s.line.a0 = .l ∧ s.params.tAddrLatch ≤ 2 := by decide

theorem witness_TargetLatches_goodDataWindow : let s := { addressWindow .w7 3 with line := ⟨.l, .h, .asserted, 0x30#8, .deasserted⟩ }
    s.bus.phase = .w7 ∧ s.line.d = 0x30#8 ∧ s.line.cs = .asserted ∧ s.line.ic = .deasserted ∧
    s.chip.window = some ⟨3, true, true⟩ ∧ s.line.we = .l ∧ s.line.a0 = .h ∧ s.params.tDataLatch ≤ 3 := by decide

theorem witness_TargetLatches_shortWindow : let s := addressWindow .w7 1
    s.bus.phase = .w7 ∧ s.line.d = 0x30#8 ∧ s.line.cs = .asserted ∧ s.line.ic = .deasserted ∧
    s.chip.window = some ⟨1, true, true⟩ ∧ s.line.a0 = .l ∧ 1 < s.params.tAddrLatch := by decide

theorem witness_TargetLatches_noEffect :
    (let s := { addressWindow .w7 2 with line := ⟨.l, .l, .asserted, 0x30#8, .asserted⟩ }
     s.bus.phase = .w7 ∧ s.line.d = 0x30#8 ∧ s.line.ic = .asserted) ∧
    (let s := inPhase .w7 .l .l .deasserted 0x30#8
     s.bus.phase = .w7 ∧ s.line.d = 0x30#8 ∧ s.line.cs ≠ .asserted) ∧
    (Instr.regInstVol 1#4).address? = some 0x31#8 ∧ (addressWindow .w7 2).line.d ≠ 0x31#8 ∧
    (addressWindow .w6 1).bus.phase ≠ .w7 ∧ (addressWindow .w6 1).line.d = 0x30#8 := by decide

theorem witness_HostTakesTheEvent : hostFree hostState = true ∧ hostFree claiming = false ∧
    hostFree (addressWindow .w7 2) = false := by decide

theorem witness_NoteOnClaimsTheFirstFreeSlotOrIsExhausted : hostState.env.acts = [] ∧ hostState.env.table.length = prm.nVoices ∧
    hostState.env.cursor < prm.nVoices ∧ (Env.initial prm).table.length = prm.nVoices := by decide

theorem witness_SequentialNoteOnsFillTheTableRoundRobin :
    let calls : List (Byte × Nibble × Byte) := [(60#8, 0#4, 1#8), (61#8, 0#4, 1#8), (62#8, 0#4, 1#8)]
    1 ≤ prm.nVoices ∧ (Env.initial prm).table.length = prm.nVoices ∧ (Env.initial prm).acts = [] ∧ (Env.initial prm).cursor < prm.nVoices ∧
    (∀ i < prm.nVoices, slotOff (Env.initial prm).table i = true) ∧ calls.length ≤ prm.nVoices ∧ calls.length = prm.nVoices := by decide

theorem witness_NoteMapperIsPeriodicAndClamped : (127#8).toNat = (115#8).toNat + 12 ∧ 95 < (96#8).toNat ∧ (95#8).toNat ≤ 95 := by decide

theorem witness_NoteOffReleases : hostState.env.table[1]? = some ⟨62#8, 0#4, true⟩ ∧ hostState.env.acts = [] := by decide

theorem witness_KillAllSilencesEveryVoice : hostState.env.acts = [] ∧ hostState.env.table[2]? = some ⟨0#8, 0#4, false⟩ := by decide

theorem witness_ControlLoop_holds :
    ({ addressWindow .w7 2 with moves := [.loop] }.moves = [.loop] ∧ (addressWindow .w7 2).bus.phase ≠ .idle) ∧
    { base with port := ⟨none, some 0#17, false⟩ }.port.cmd.isSome = true ∧ held.port.rst = true := by decide

theorem witness_ControlLoop_acts : let e := { base.env with acts := [.command 0x0301F#17] }
    base.port.rst = false ∧ base.bus.phase = .idle ∧ base.port.cmd = none ∧ e.acts = .command 0x0301F#17 :: [] ∧ (0x0301F#17).getLsbD 16 = false ∧
    e.owesChipReset = false ∧ { e with owesChipReset := true }.owesChipReset = true ∧
    claiming.env.acts = .claim 2 64#8 0#4 :: [] ∧ ∀ w, HostAct.claim 2 64#8 0#4 ≠ .command w :=
  ⟨rfl, rfl, rfl, rfl, by decide, rfl, rfl, rfl, fun _ h => by cases h⟩

theorem witness_ControlLoop_events : (moving [.loop]).moves = [.loop] ∧ (moving [.loop]).env.acts = [] ∧
    { base.env with keyEvents := [.off 0#8 0#4] }.keyEvents = .off 0#8 0#4 :: [] ∧ pending.env.keyEvents = [] ∧
    pending.dec.evValid = true ∧ base.dec.evValid = false ∧ (withByte 0x90#8 base).port.rx.isSome = true := by decide

theorem witness_ControlLoop_sources : base.port.rx = none ∧ { base.env with modeSignal := .matrix }.mode ≠ .matrix ∧
    base.env.mode = base.env.modeSignal ∧ base.env.mode = .serial ∧ base.env.uart = [] ∧
    { base.env with uart := [0x90#8] }.uart = 0x90#8 :: [] ∧
    { base.env with mode := .matrix, modeSignal := .matrix }.mode = { base.env with mode := .matrix, modeSignal := .matrix }.modeSignal := by
  decide

theorem test_keyDiff : (keyDiff [true, false, true] [true, true]).length = 2 ∧
    keyDiff [true, false, true] [true, true] = [keyEvent 1 false, keyEvent 2 true] := ⟨rfl, rfl⟩

theorem witness_TicksForMeetsTheArithmeticOfR142 : 0 < 1 ∧ 0 < 84 := by decide

end Sys2Proof.Tests
end

section
/-! PROOFS. The family 00_scope: a step runs what is decoded (R2), answers a next state from any state (R14), and what it reads and
leaves unchanged (R12, R13, R20); the state after reset (R44) and the electrical levels (R9). -/

namespace Sys2Proof.Machine

/-! ## Fields of the words that the decoder reads (R90 to R97) -/

theorem statusByte_classBit (hi lo : Nibble) : (statusByte hi lo).getLsbD 7 = hi.getLsbD 3 :=
  BitVec.getLsbD_append.trans (by simp)

theorem statusByte_low (hi lo : Nibble) : (statusByte hi lo).extractLsb' 0 4 = lo := instrumentOf_statusByte hi lo

theorem statusByte_row (hi lo : Nibble) : (statusByte hi lo).extractLsb' 4 3 = hi.extractLsb' 0 3 := by
  apply BitVec.eq_of_toNat_eq
  simp only [BitVec.extractLsb'_toNat, statusByte_toNat, Nat.shiftRight_eq_div_pow]
  omega

theorem dataByteOf_low (d : BitVec 7) : (dataByteOf d).extractLsb' 0 7 = d := by
  apply BitVec.eq_of_toNat_eq
  simp only [BitVec.extractLsb'_toNat, dataByteOf_toNat, Nat.shiftRight_zero]
  omega

theorem dataByteOf_extract {b : Byte} (h : isStatus b = false) : dataByteOf (b.extractLsb' 0 7) = b := by
  have hb : ¬ 128 ≤ b.toNat := by simp [← isStatus_iff, h]
  apply BitVec.eq_of_toNat_eq
  simp only [dataByteOf_toNat, BitVec.extractLsb'_toNat, Nat.shiftRight_zero]
  omega

theorem pack_kindBit (e : NoteEvent) : e.pack.getLsbD 20 = (e.kind == 1#1) := by
  rw [NoteEvent.pack, BitVec.getLsbD_append, BitVec.getLsbD_append, BitVec.getLsbD_append]
  cases e <;> simp [NoteEvent.kind]

theorem pack_noteBit (e : NoteEvent) : e.pack.getLsbD 15 = isStatus e.note := by
  rw [NoteEvent.pack, BitVec.getLsbD_append, BitVec.getLsbD_append]
  rfl

theorem pack_velocityBit (e : NoteEvent) : e.pack.getLsbD 7 = isStatus e.velocity := by
  rw [NoteEvent.pack, BitVec.getLsbD_append]
  rfl

/-- The fields that the decoder reads from a packed event (R97). -/
theorem pack_fields (e : NoteEvent) : e.pack.extractLsb' 16 4 = e.instrument ∧
    e.pack.extractLsb' 8 7 = e.note.extractLsb' 0 7 ∧ e.pack.extractLsb' 0 7 = e.velocity.extractLsb' 0 7 ∧
    e.pack.extractLsb' 0 8 = e.velocity := by
  refine ⟨?_, ?_, ?_, ?_⟩
  all_goals
    apply BitVec.eq_of_toNat_eq
    simp only [BitVec.extractLsb'_toNat, pack_toNat, Nat.shiftRight_eq_div_pow]
    omega

/-! ## The decoder in each format: a word decodes to its row -/

theorem decode_inputByte (b : Byte) : decode .inputByte b.toNat = .ok (decodeInputByte b) := by
  simp [decode, Format.width, b.isLt]

theorem decode_busCommand (w : CmdWord) : decode .busCommand w.toNat = .ok (decodeCommand w) := by
  simp [decode, Format.width, w.isLt]

theorem decode_busPhase (p : Phase) : decode .busPhase p.number = .ok p.instr := by
  cases p <;> rfl

theorem decode_decState (q : DecState) : decode .decState (encode q.instr) = .ok q.instr := by
  cases q <;> rfl

theorem decode_targetAddress {a : Byte} {i : Instr} (h : decode .targetAddress a.toNat = .ok i) : decodeTarget a = some i := by
  simp only [decode, Format.width, a.isLt, if_true, BitVec.ofNat_toNat, BitVec.setWidth_eq] at h
  split at h
  · next ha => rwa [← Except.ok.inj h]
  · contradiction

theorem decode_noteEvent {e : NoteEvent} {i : Instr} (h : decode .noteEvent e.pack.toNat = .ok i) : e.instr? = some i := by
  simp only [decode, Format.width, e.pack.isLt, if_true, BitVec.ofNat_toNat, BitVec.setWidth_eq] at h
  split at h
  · next he => rwa [NoteEvent.instr?, ← Except.ok.inj h]
  · contradiction

/-! ## The row of a word, and the word of a row -/

theorem decodeInputByte_of_byte? {i : Instr} {b : Byte} (h : i.byte? = some b) : decodeInputByte b = i := by
  cases i <;> simp only [Instr.byte?, Option.some.injEq, reduceCtorEq] at h <;> subst h
  case dataByte d =>
    have hbit : (dataByteOf d).getLsbD 7 = false := isStatus_dataByteOf d
    rw [decodeInputByte, hbit, dataByteOf_low]
    rfl
  all_goals
    rw [decodeInputByte, statusByte_classBit, statusByte_row, statusByte_low]
    rfl

/-- A byte is its high nibble and its low one. -/
theorem statusByte_of_high {b : Byte} {hi : Nibble} (h : b.toNat / 16 = hi.toNat) :
    statusByte hi (b.extractLsb' 0 4) = b := by
  apply BitVec.eq_of_toNat_eq
  rw [statusByte_toNat, BitVec.extractLsb'_toNat, Nat.shiftRight_zero]
  omega

theorem byte?_decodeInputByte (b : Byte) : (decodeInputByte b).byte? = some b := by
  unfold decodeInputByte
  split
  case isTrue h =>
    have hb : 128 ≤ b.toNat := (isStatus_iff b).1 h
    have hrow : (b.extractLsb' 4 3).toNat = b.toNat / 16 - 8 := by
      rw [BitVec.extractLsb'_toNat, Nat.shiftRight_eq_div_pow]
      omega
    have hhigh : b.toNat / 16 = 8 ∨ b.toNat / 16 = 9 ∨ b.toNat / 16 = 10 ∨ b.toNat / 16 = 11 ∨ b.toNat / 16 = 12 ∨
        b.toNat / 16 = 13 ∨ b.toNat / 16 = 14 ∨ b.toNat / 16 = 15 := by omega
    rw [hrow]
    rcases hhigh with hi | hi | hi | hi | hi | hi | hi | hi <;> rw [hi] <;> exact congrArg some (statusByte_of_high hi)
  case isFalse h => exact congrArg some (dataByteOf_extract (by simpa [isStatus] using h))

theorem decodeCommand_writeWord (a d : Byte) : decodeCommand (writeWord a d) = .write a d := by
  rw [decodeCommand, writeWord_isWrite, writeWord_address, writeWord_data]; rfl

theorem decodeCommand_chipResetWord (x : BitVec 16) : decodeCommand (chipResetWord x) = .chipReset x := by
  have hx : (chipResetWord x).extractLsb' 0 16 = x := by
    apply BitVec.eq_of_toNat_eq
    simp only [BitVec.extractLsb'_toNat, chipResetWord_toNat]
    omega
  rw [decodeCommand, chipResetWord_isReset, hx]; rfl

theorem decodeTarget_eq_some (a : Byte) (i : Instr) : decodeTarget a = some i ↔ i.address? = some a := by
  constructor
  · intro h
    have hhigh : (a.extractLsb' 4 4).toNat = a.toNat / 16 := opcodeNibble_toNat a
    unfold decodeTarget at h
    rw [hhigh] at h
    split at h
    · next hn =>
      split at h
      · next hlow =>
        obtain rfl := Option.some.inj h
        rw [← statusByte_of_high (hi := 0x0#4) hn, hlow]
        rfl
      · contradiction
    · next hn => exact Option.some.inj h ▸ congrArg some (statusByte_of_high (hi := 0x1#4) hn)
    · next hn => exact Option.some.inj h ▸ congrArg some (statusByte_of_high (hi := 0x2#4) hn)
    · next hn => exact Option.some.inj h ▸ congrArg some (statusByte_of_high (hi := 0x3#4) hn)
    · contradiction
  · intro h
    cases i <;> simp only [Instr.address?, Option.some.injEq, reduceCtorEq] at h <;> subst h
    case regRhythmDisable => rfl
    all_goals
      unfold decodeTarget voiceAddress
      rw [← statusByte, statusByte_low, show (statusByte _ _).extractLsb' 4 4 = _ from opcodeNibble_statusByte _ _]
      rfl

/-- The events that have a row: those whose data bytes have bit 7 clear (R97). -/
theorem instr?_eq_some (e : NoteEvent) (i : Instr) : e.instr? = some i ↔
    (∃ x n, i = .eventOff x n ∧ e = .off (dataByteOf n) x) ∨
    (∃ x n v, i = .eventOn x n v ∧ e = .on (dataByteOf n) x (dataByteOf v)) := by
  obtain ⟨hinstrument, hnote, hvelocity, hbyte⟩ := pack_fields e
  rw [NoteEvent.instr?, decodeEvent, pack_kindBit, pack_noteBit, pack_velocityBit, hinstrument, hnote, hvelocity, hbyte]
  constructor
  · intro h
    cases e with
    | on n x v =>
      cases hn : isStatus n <;> cases hv : isStatus v <;>
        simp [NoteEvent.note, NoteEvent.velocity, NoteEvent.kind, NoteEvent.instrument, hn, hv] at h
      exact .inr ⟨x, _, _, h.symm, by rw [dataByteOf_extract hn, dataByteOf_extract hv]⟩
    | off n x =>
      cases hn : isStatus n <;> simp [NoteEvent.note, NoteEvent.velocity, NoteEvent.kind, NoteEvent.instrument, hn] at h
      exact .inl ⟨x, _, h.symm, by rw [dataByteOf_extract hn]⟩
  · rintro (⟨x, n, rfl, rfl⟩ | ⟨x, n, v, rfl, rfl⟩) <;>
      simp [NoteEvent.note, NoteEvent.velocity, NoteEvent.kind, NoteEvent.instrument, isStatus_dataByteOf, dataByteOf_low]

/-! ## What the rows of one format run, by the shared operation -/

theorem exec_byte {i : Instr} {b : Byte} (h : i.byte? = some b) (s : State) : exec i s = .next (takeByte b s) := by
  cases i <;> simp only [Instr.byte?, Option.some.injEq, reduceCtorEq] at h <;> subst h <;> rfl

theorem exec_address {i : Instr} {a : Byte} (h : i.address? = some a) (s : State) : exec i s = .next (latchRow a s) := by
  cases i <;> simp only [Instr.address?, Option.some.injEq, reduceCtorEq] at h <;> subst h <;> rfl

theorem exec_event {i : Instr} {e : NoteEvent} (h : e.instr? = some i) (s : State) : exec i s = .next (takeWhenFree e s) := by
  obtain ⟨x, n, rfl, rfl⟩ | ⟨x, n, v, rfl, rfl⟩ := (instr?_eq_some e i).1 h <;> rfl

theorem exec_decState (q : DecState) (s : State) : exec q.instr s = .next (decTurnFrom q s) := by
  cases q <;> rfl

theorem exec_decodeCommand (w : CmdWord) (s : State) : exec (decodeCommand w) s = runCommand w s := by
  unfold decodeCommand
  split
  · next h =>
    refine congrArg (runCommand · s) (BitVec.eq_of_toNat_eq ?_)
    have := (chipSelectsReset_iff w).1 h
    rw [chipResetWord_toNat, BitVec.extractLsb'_toNat, Nat.shiftRight_zero]
    omega
  · next h =>
    refine congrArg (runCommand · s) (BitVec.eq_of_toNat_eq ?_)
    have := (chipSelectsReset_iff w).not.1 h
    rw [writeWord_toNat, BitVec.extractLsb'_toNat, BitVec.extractLsb'_toNat, Nat.shiftRight_eq_div_pow, Nat.shiftRight_zero]
    omega

/-- The state that the row of phase `p` answers; `exec_phase` says that it always answers one. -/
def microStep (p : Phase) (s : State) : State :=
  match exec p.instr s with
  | .next t => t
  | .fault _ => s
  | .refused _ => s

theorem microStep_idle (s : State) : microStep .idle s = match s.port.cmd with
    | none => s
    | some w => if cmdReady s then acceptCommand w s else s := by
  unfold microStep exec Phase.instr execPhaseIdle
  cases s.port.cmd <;> rfl

theorem exec_phase (p : Phase) (s : State) : exec p.instr s = .next (microStep p s) := by
  cases p
  case idle =>
    rw [microStep_idle]
    show execPhaseIdle s = _
    unfold execPhaseIdle
    cases s.port.cmd <;> rfl
  all_goals rfl

/-! ## What each agent fetches, and what running it answers -/

theorem fetchBus_of_phase {s : State} (h : s.bus.phase ≠ .idle ∨ s.port.cmd = none) : fetchBus s = s.bus.phase.instr := by
  unfold fetchBus
  split
  · next w hp hc => simp [hp, hc] at h
  · rfl

theorem fetchBus_command {s : State} {w : CmdWord} (hp : s.bus.phase = .idle) (hc : s.port.cmd = some w) :
    fetchBus s = decodeCommand w := by
  simp [fetchBus, hp, hc]

theorem fetchDec_byte {s : State} {b : Byte} (hrx : s.port.rx = some b) (hev : s.dec.evValid = false) :
    fetchDec s = decodeInputByte b := by
  simp [fetchDec, hrx, rxReady, hev]

theorem fetchDec_state {s : State} (h : s.port.rx = none ∨ s.dec.evValid = true) : fetchDec s = s.dec.state.instr := by
  unfold fetchDec
  split
  · rfl
  · next b hrx => simp [rxReady, (by simpa [hrx] using h : s.dec.evValid = true)]

theorem exec_fetchDec (s : State) : exec (fetchDec s) s = .next (decTurnFrom s.dec.state s) := by
  unfold fetchDec decTurnFrom
  cases hrx : s.port.rx with
  | none => simp [exec_decState, decTurnFrom, hrx]
  | some b =>
    cases hev : s.dec.evValid with
    | false => simpa [rxReady, hev, takeByte] using exec_byte (byte?_decodeInputByte b) s
    | true => simp [rxReady, hev, exec_decState, decTurnFrom, hrx]

theorem exec_fetchBus (s : State) : exec (fetchBus s) s = .next (microStep s.bus.phase s) := by
  by_cases h : s.bus.phase ≠ .idle ∨ s.port.cmd = none
  · rw [fetchBus_of_phase h, exec_phase]
  · obtain ⟨hp, w, hc⟩ : s.bus.phase = .idle ∧ ∃ w, s.port.cmd = some w := by
      simpa [Option.ne_none_iff_exists'] using h
    rw [fetchBus_command hp hc, exec_decodeCommand, hp, microStep_idle, hc]
    simp [runCommand, cmdReady, hp]

theorem exec_fetchEvent {s : State} {i : Instr} (h : fetchEvent s = some i) : exec i s = .next (takePending s) := by
  unfold fetchEvent at h
  split at h
  · next hev => rw [exec_event h, takePending, if_pos hev]
  · contradiction

theorem exec_fetchAddress {s : State} {i : Instr} (h : fetchAddress s = some i) : exec i s = .next (deselectAddress s) := by
  unfold fetchAddress at h
  split at h
  · next hp => rw [exec_address ((decodeTarget_eq_some _ _).1 h), latchRow, if_pos ⟨hp, rfl⟩]
  · contradiction

theorem fetch_loop {s : State} {i : Instr} (h : fetch .loop s = some i) :
    fetchEvent s = some i ∧ loopTurn s = takePending s := by
  simp only [fetch] at h
  split at h
  · next hl => exact ⟨h, by rw [loopTurn, hl]⟩
  · contradiction

/-! ## A move as one function of the state

A step either runs the fetched instruction or makes an environment move. Both come to the same total function of the state, so
facts about every step are facts about `Move.effect` and need neither `fetch` nor `exec`. -/

/-- What a move makes of the state, whether it runs an instruction or not; `step_effect` ties it to `step`. -/
def Move.effect (m : Move) (s : State) : State :=
  match m with
  | .dec => if s.port.rst then s else decTurnFrom s.dec.state s
  | .bus => if s.port.rst then s else microStep s.bus.phase s
  | .address => if (fetch .address s).isSome then deselectAddress s else s
  | m => environment m s

theorem exec_of_fetch {m : Move} {s : State} {i : Instr} (h : fetch m s = some i) : exec i s = .next (m.effect s) := by
  obtain ⟨rfl, hr, rfl⟩ | ⟨rfl, hr, rfl⟩ | ⟨rfl, hr, ha⟩ | ⟨rfl | rfl, he⟩ := fetch_some h
  · simp [Move.effect, hr, exec_fetchDec]
  · simp [Move.effect, hr, exec_fetchBus]
  · simp [Move.effect, h, exec_fetchAddress ha]
  · exact exec_fetchEvent he
  · rw [exec_fetchEvent he, ← (fetch_loop h).2]
    rfl

theorem effect_of_fetch_none {m : Move} {s : State} (h : fetch m s = none) : m.effect s = environment m s := by
  cases m
  case dec | bus =>
    have hr : s.port.rst = true := by simpa [fetch] using h
    simp [Move.effect, hr, environment]
  case address => simp [Move.effect, h, environment]
  all_goals rfl

theorem step_effect {s : State} {m : Move} {rest : List Move} (h : s.moves = m :: rest) :
    step s = .next (m.effect { s with moves := rest }) := by
  cases hf : fetch m { s with moves := rest } with
  | none => rw [step_environment h hf, effect_of_fetch_none hf]
  | some i => rw [step_runs h hf, exec_of_fetch hf]

/-- Every step is the tick source's with no move scheduled, and the next move's effect otherwise. -/
theorem step_effect_cases {s t : State} (h : step s = .next t) :
    (s.moves = [] ∧ t = tickSource s) ∨ (∃ m rest, s.moves = m :: rest ∧ t = m.effect { s with moves := rest }) := by
  obtain ⟨hm, ht⟩ | ⟨m, rest, i, hm, hf, he⟩ | ⟨m, rest, hm, hf, ht⟩ := step_cases h
  · exact .inl ⟨hm, ht⟩
  · exact .inr ⟨m, rest, hm, by simpa [exec_of_fetch hf] using he.symm⟩
  · exact .inr ⟨m, rest, hm, ht.trans (effect_of_fetch_none hf).symm⟩

/-! ## What a part of a step reads and changes

The agents beside the tick source and `rst` are of two kinds. Each kind is said once, for a state whose observer is any other:
with the state's own observer it is a frame, with another one it says that the observer is not read. -/

/-- `f` changes at most `dec`, the ports and the host, and nothing of that depends on the observer. -/
def HostSide (f : State → State) : Prop := ∀ (s : State) (c : Chip),
  f { s with chip := c } = { s with chip := c, dec := (f s).dec, port := (f s).port, env := (f s).env }

/-- `f` changes at most `bus`, the lines, the ports and the observer, and only the observer depends on the observer. -/
def BusSide (f : State → State) : Prop := ∀ (s : State) (c : Chip), ∃ c' : Chip,
  f { s with chip := c } = { s with chip := c', bus := (f s).bus, line := (f s).line, port := (f s).port }

/-- States that differ only in the observer go to states that differ only in it. -/
def ObserverBlind (f : State → State) : Prop := ∀ (s : State) (c : Chip), ∃ c' : Chip,
  f { s with chip := c } = { f s with chip := c' }

theorem HostSide.observerBlind {f : State → State} (h : HostSide f) : ObserverBlind f := by
  intro s c
  have hs := congrArg (fun t : State => { t with chip := c }) (h s s.chip)
  exact ⟨c, (h s c).trans hs.symm⟩

theorem BusSide.observerBlind {f : State → State} (h : BusSide f) : ObserverBlind f := by
  intro s c
  obtain ⟨c', hc⟩ := h s c
  obtain ⟨c'', hs⟩ := h s s.chip
  exact ⟨c', hc.trans (congrArg (fun t : State => { t with chip := c' }) hs).symm⟩

theorem HostSide.frame {f : State → State} (h : HostSide f) (s : State) :
    (f s).params = s.params ∧ (f s).bus = s.bus ∧ (f s).line = s.line ∧ (f s).tick = s.tick := by
  have hs : f s = _ := h s s.chip
  rw [hs]
  exact ⟨rfl, rfl, rfl, rfl⟩

theorem BusSide.frame {f : State → State} (h : BusSide f) (s : State) :
    (f s).params = s.params ∧ (f s).tick = s.tick := by
  obtain ⟨c', hs⟩ : ∃ c', f s = _ := h s s.chip
  rw [hs]
  exact ⟨rfl, rfl⟩

/-! ## The kind of each operation -/

theorem takeByteFrom_hostSide (q : DecState) (b : Byte) : HostSide (takeByteFrom q b) := by
  intro s c
  unfold takeByteFrom rxReady
  dsimp only
  split <;> rfl

theorem decTurnFrom_hostSide (q : DecState) : HostSide (decTurnFrom q) := by
  intro s c
  unfold decTurnFrom
  dsimp only
  split
  · rfl
  · next b _ => exact takeByteFrom_hostSide q b s c

theorem takeWhenFree_hostSide (e : NoteEvent) : HostSide (takeWhenFree e) := by
  intro s c
  unfold takeWhenFree hostFree cmdReady
  dsimp only
  split <;> rfl

theorem takePending_hostSide : HostSide takePending := by
  intro s c
  unfold takePending
  split
  · exact takeWhenFree_hostSide s.dec.ev s c
  · rfl

theorem handByte_hostSide : HostSide handByte := by
  intro s c
  unfold handByte rxReady
  dsimp only
  split
  · split <;> rfl
  · rfl

theorem doNextAct_hostSide : HostSide doNextAct := by
  intro s c
  unfold doNextAct busy
  dsimp only
  split
  · split <;> rfl
  · split <;> rfl
  · rfl
  · rfl

theorem nextAct_hostSide : HostSide nextAct := by
  intro s c
  unfold nextAct
  split
  · rfl
  · exact doNextAct_hostSide s c

theorem handleKeyEvent_hostSide : HostSide handleKeyEvent := by
  intro s c
  unfold handleKeyEvent
  dsimp only
  split <;> rfl

theorem pollSource_hostSide : HostSide pollSource := by
  intro s c
  unfold pollSource
  dsimp only
  split
  · exact handByte_hostSide s c
  · rfl

theorem loopTurn_hostSide : HostSide loopTurn := by
  intro s c
  have hact : loopAct { s with chip := c } = loopAct s := rfl
  unfold loopTurn
  rw [hact]
  split
  · rfl
  · exact nextAct_hostSide s c
  · exact handleKeyEvent_hostSide s c
  · exact takePending_hostSide s c
  · rfl
  · exact pollSource_hostSide s c

theorem hostStart_hostSide : HostSide hostStart := by
  intro s c
  unfold hostStart hostFree cmdReady
  dsimp only
  split <;> rfl

theorem rstRelease_hostSide : HostSide rstRelease := by
  intro s c
  unfold rstRelease
  dsimp only
  split <;> rfl

theorem waitTicks_busSide (n : State → Nat) (hn : ∀ (s : State) (c : Chip), n { s with chip := c } = n s) (p : Phase) :
    BusSide (fun s => waitTicks (n s) p s) := by
  intro s c
  refine ⟨c, ?_⟩
  unfold waitTicks elapsed
  dsimp only
  rw [hn]
  split <;> rfl

theorem microStep_busSide (p : Phase) : BusSide (microStep p) := by
  cases p
  case idle =>
    intro s c
    refine ⟨c, ?_⟩
    rw [microStep_idle, microStep_idle]
    unfold cmdReady acceptCommand
    dsimp only
    split
    · rfl
    · split
      · split <;> rfl
      · rfl
  case w2 | w4 | w10 | w13 => exact waitTicks_busSide (·.params.tSettle) (fun _ _ => rfl) _
  case w6 => exact waitTicks_busSide (·.params.tAddrLatch) (fun _ _ => rfl) _
  case w15 => exact waitTicks_busSide (·.params.tDataLatch) (fun _ _ => rfl) _
  case x2 => exact waitTicks_busSide (·.params.tResetPark) (fun _ _ => rfl) _
  all_goals exact fun _ _ => ⟨_, rfl⟩

theorem busTurn_busSide : BusSide (Move.effect .bus) := by
  intro s c
  unfold Move.effect
  dsimp only
  split
  · exact ⟨c, rfl⟩
  · exact microStep_busSide s.bus.phase s c

theorem addressTurn_busSide : BusSide (Move.effect .address) := by
  intro s c
  have hfetch : fetch .address { s with chip := c } = fetch .address s := rfl
  unfold Move.effect
  dsimp only
  rw [hfetch]
  split <;> exact ⟨_, rfl⟩

theorem decTurn_hostSide : HostSide (Move.effect .dec) := by
  intro s c
  unfold Move.effect
  dsimp only
  split
  · rfl
  · exact decTurnFrom_hostSide s.dec.state s c

/-- The four kinds of move: the tick source's, the assertion of `rst`, BUS's turn under either name, and those of DEC and the host. -/
theorem effect_cases (m : Move) :
    m = .tick ∨ m = .rstAssert ∨ ((m = .bus ∨ m = .address) ∧ BusSide m.effect) ∨ HostSide m.effect := by
  cases m with
  | tick => exact .inl rfl
  | rstAssert => exact .inr (.inl rfl)
  | bus => exact .inr (.inr (.inl ⟨.inl rfl, busTurn_busSide⟩))
  | address => exact .inr (.inr (.inl ⟨.inr rfl, addressTurn_busSide⟩))
  | dec => exact .inr (.inr (.inr decTurn_hostSide))
  | takeEvent => exact .inr (.inr (.inr takePending_hostSide))
  | handByte => exact .inr (.inr (.inr handByte_hostSide))
  | issue => exact .inr (.inr (.inr nextAct_hostSide))
  | loop => exact .inr (.inr (.inr loopTurn_hostSide))
  | hostInit => exact .inr (.inr (.inr hostStart_hostSide))
  | rstRelease => exact .inr (.inr (.inr rstRelease_hostSide))
  | request | receive | setMode | setKeys => exact .inr (.inr (.inr fun _ _ => rfl))

theorem effect_observerBlind (m : Move) : ObserverBlind m.effect := by
  obtain rfl | rfl | ⟨-, hbus⟩ | hhost := effect_cases m
  · exact fun _ _ => ⟨_, rfl⟩
  · exact fun _ _ => ⟨_, rfl⟩
  · exact hbus.observerBlind
  · exact hhost.observerBlind

/-! ## The obligations on every step -/

/-- Settles O50, through `effect_observerBlind`: no agent reads the observer. -/
theorem observerNeverFeedsBack : Obligations.ObserverNeverFeedsBack := by
  intro s t c h
  obtain ⟨hm, rfl⟩ | ⟨m, rest, hm, rfl⟩ := step_effect_cases h
  · exact ⟨_, step_no_moves { s with chip := c } hm, rfl⟩
  · obtain ⟨c', hc⟩ := effect_observerBlind m { s with moves := rest } c
    refine ⟨_, step_effect (s := { s with chip := c }) hm, ?_⟩
    exact congrArg (fun u : State => { u with chip := (m.effect { s with moves := rest }).chip }) hc

/-- Settles O8: the next move's effect is a total function of the state. -/
theorem everyStepAnswersANextState : Obligations.EveryStepAnswersANextState := by
  intro s
  cases hm : s.moves with
  | nil => exact ⟨_, step_no_moves s hm, fun _ => rfl⟩
  | cons m rest => exact ⟨_, step_effect hm, nofun⟩

/-- Settles O9, by the four kinds of move. -/
theorem onlyBusMovesAndResetTouchTheBus : Obligations.OnlyBusMovesAndResetTouchTheBus := by
  intro s t h
  unfold State.busTurn State.tickNext State.notResetting
  obtain ⟨hm, rfl⟩ | ⟨m, rest, hm, rfl⟩ := step_effect_cases h
  · exact ⟨rfl, fun _ _ => ⟨rfl, rfl⟩, by simp [hm]⟩
  obtain rfl | rfl | ⟨hb, hbus⟩ | hhost := effect_cases m
  · exact ⟨rfl, fun _ _ => ⟨rfl, rfl⟩, by simp [hm]⟩
  · exact ⟨rfl, by simp [hm], by simp [hm]⟩
  · obtain ⟨hparams, htick⟩ := hbus.frame { s with moves := rest }
    exact ⟨hparams, fun hn => absurd hb (by simpa [hm] using hn), fun _ _ => htick⟩
  · obtain ⟨hparams, hbus, hline, htick⟩ := hhost.frame { s with moves := rest }
    exact ⟨hparams, fun _ _ => ⟨hbus, hline⟩, fun _ _ => htick⟩

/-! ## Placed instructions and decoded ones -/

theorem step_placeByte {i : Instr} {b : Byte} (h : i.byte? = some b) (s : State) :
    step (placeByte b s) = exec i { placeByte b s with moves := s.moves } := by
  rw [← decodeInputByte_of_byte? h]
  exact step_runs rfl rfl

theorem step_placeCommand {i : Instr} {w : CmdWord} (h : decodeCommand w = i) (s : State) :
    step (placeCommand w s) = exec i { placeCommand w s with moves := s.moves } := step_runs rfl (congrArg some h)

theorem step_placePhase {p : Phase} {s : State} (h : p ≠ .idle ∨ s.port.cmd = none) :
    step (placePhase p s) = exec p.instr { placePhase p s with moves := s.moves } :=
  step_runs rfl (congrArg some (fetchBus_of_phase (s := { placePhase p s with moves := s.moves }) h))

theorem step_placeState (q : DecState) (s : State) :
    step (placeState q s) = exec q.instr { placeState q s with moves := s.moves } := step_runs rfl rfl

theorem step_placeAddress {i : Instr} {a : Byte} (h : i.address? = some a) (s : State) :
    step (placeAddress a s) = exec i { placeAddress a s with moves := s.moves } :=
  step_runs rfl ((decodeTarget_eq_some a i).2 h)

theorem step_placeEvent {i : Instr} {e : NoteEvent} (h : e.instr? = some i) (s : State) :
    step (placeEvent e s) = exec i { placeEvent e s with moves := s.moves } := step_runs rfl h

/-- Settles O7: each row is placed where its format's agent fetches it. -/
theorem placedInstructionIsTheNextToRun : Obligations.PlacedInstructionIsTheNextToRun := by
  intro i s
  constructor
  · cases i <;> exact ⟨_, rfl⟩
  cases i with
  | noteOffStatus | noteOnStatus | unrecognisedStatusA | unrecognisedStatusB | unrecognisedStatusC | unrecognisedStatusD
  | unrecognisedStatusE | unrecognisedStatusF | dataByte => exact step_placeByte rfl s
  | write a d => exact step_placeCommand (decodeCommand_writeWord a d) s
  | chipReset x => exact step_placeCommand (decodeCommand_chipResetWord x) s
  | phaseIdle => exact step_placePhase (.inr rfl)
  | stateAwaitingStatus | stateAwaitingNote | stateAwaitingVelocity => exact step_placeState _ s
  | regRhythmDisable | regFreqLow | regOctGate | regInstVol => exact step_placeAddress rfl s
  | eventOff x n => exact step_placeEvent ((instr?_eq_some _ _).2 (.inl ⟨x, n, rfl, rfl⟩)) s
  | eventOn x n v => exact step_placeEvent ((instr?_eq_some _ _).2 (.inr ⟨x, n, v, rfl, rfl⟩)) s
  | _ => exact step_placePhase (.inl nofun)

/-- Settles O6: in each format the decoded row is the fetched one. -/
theorem stepRunsTheDecodedInstruction : Obligations.StepRunsTheDecodedInstruction := by
  intro s rest i
  refine ⟨?_, ?_, ?_, ?_, ?_, ?_⟩
  · rintro hm hr hev ⟨b, hrx, hi⟩
    obtain rfl : decodeInputByte b = i := by simpa [decode_inputByte] using hi
    exact step_runs hm (by simp [fetch, hr, fetchDec_byte, hrx, hev])
  · rintro hm hr hp ⟨w, hc, hi⟩
    obtain rfl : decodeCommand w = i := by simpa [decode_busCommand] using hi
    exact step_runs hm (by simp [fetch, hr, fetchBus_command, hp, hc])
  · intro hm hr hp hi
    obtain rfl : s.bus.phase.instr = i := by simpa [decode_busPhase] using hi
    exact step_runs hm (by simp [fetch, hr, fetchBus_of_phase, hp])
  · intro hm hr hrx hi
    obtain rfl : s.dec.state.instr = i := by simpa [decode_decState] using hi
    exact step_runs hm (by simp [fetch, hr, fetchDec_state, hrx])
  · intro hm hr hp hi
    exact step_runs hm (by simp [fetch, hr, fetchAddress, hp, decode_targetAddress hi])
  · intro hm hev hi
    exact step_runs hm (by simp [fetch, fetchEvent, hev, decode_noteEvent hi])

/-! ## The state after reset -/

theorem ofConfig_admissible : Params.ofConfig.admissible := by
  have hpow : 0 < 2 ^ (Config.openTickW + 1) := by positivity
  exact ⟨Nat.le_add_left _ _, Nat.mod_lt _ hpow, Nat.mod_lt _ hpow, Nat.mod_lt _ hpow, Nat.mod_lt _ hpow, Nat.succ_pos _,
    by decide, by decide, by decide, Nat.le_add_left _ _, Nat.mod_lt _ (by decide)⟩

theorem reset_busInv : BusInv State.reset := by
  have hpow : 0 < 2 ^ Params.ofConfig.tickW := by positivity
  exact ⟨Nat.mod_lt _ hpow, Nat.mod_lt _ hpow, ⟨rfl, rfl⟩, trivial, rfl, trivial, reset_memory_wf⟩

theorem reset_decInv : DecInv State.reset := ⟨rfl, rfl, fun h => absurd rfl h, nofun⟩

theorem reset_rstInv : RstInv State.reset := nofun

theorem reset_envInv : EnvInv State.reset := ⟨List.length_replicate, Nat.succ_pos _, fun _ => rfl⟩

/-- Settles O12, part by part of the invariant. -/
theorem resetMeetsTheInvariant : Obligations.ResetMeetsTheInvariant :=
  ⟨ofConfig_admissible, reset_busInv, reset_decInv, reset_rstInv, reset_envInv⟩

/-! ## Electrical levels -/

/-- Settles O59, line by line over the rows of R9's table. -/
theorem electricalLevelsFollowTheParameters : Obligations.ElectricalLevelsFollowTheParameters := by
  intro s
  refine ⟨?_, ?_, ?_, ?_, fun _ => rfl⟩
  · show wePin s.params s.line.we = _
    cases s.line.we <;> cases hd : s.params.idleDrive <;> simp [wePin, idlePin, hd, Level.pin]
  · show csPin s.params s.line.cs = _
    cases s.line.cs <;> cases ha : s.params.csActive <;> cases hd : s.params.idleDrive <;>
      simp [csPin, idlePin, ha, hd, Level.pin, Level.opposite]
  · show s.line.a0.pin = _
    cases s.line.a0 <;> rfl
  · show icPin s.params s.line.ic = _
    cases s.line.ic <;> cases ha : s.params.icActive <;> simp [icPin, ha, Level.pin, Level.opposite]

end Sys2Proof.Machine
end

section
/-! PROOFS. The family 10_state: who changes the decoder, the input ports and the phase in a step (R20, R28), the invariants of the
decoder (R24, R184) and of a block held in reset (R44), and the rows of the decoder's states (R21). -/

namespace Sys2Proof.Machine

/-! ## DEC's turn by what the port presents -/

theorem decTurnFrom_noByte {s : State} (h : s.port.rx = none) (q : DecState) : decTurnFrom q s = s := by
  simp [decTurnFrom, h]

theorem decTurnFrom_byte {s : State} {b : Byte} (h : s.port.rx = some b) (q : DecState) :
    decTurnFrom q s = takeByteFrom q b s := by
  simp [decTurnFrom, h]

/-- Settles O25: both rows are DEC's turn on the presented byte. -/
theorem decoderStateRowsTakeThePresentedByte : Obligations.DecoderStateRowsTakeThePresentedByte := by
  intro s
  constructor
  · intro b hrx
    rw [exec_decState, decTurnFrom_byte hrx, exec_byte (byte?_decodeInputByte b)]
    rfl
  · intro hrx
    rw [exec_decState, decTurnFrom_noByte hrx]

/-! ## A data byte on the port, by the state of the row -/

theorem takeByteFrom_sameButDec (q : DecState) (b : Byte) (s : State) : SameButDec s (takeByteFrom q b s) := by
  unfold takeByteFrom
  split <;> exact ⟨rfl, rfl, rfl, rfl, rfl, rfl, rfl, fun _ => rfl, rfl, rfl, rfl⟩

/-- The row of `q` takes a presented data byte by `decData` from `q`, and changes nothing else. -/
theorem exec_decState_data {s : State} {b : Byte} (hrx : s.port.rx = some b) (hev : s.dec.evValid = false)
    (hb : isStatus b = false) (q : DecState) : ∃ t, exec q.instr s = .next t ∧
      t.dec = emit (decData q s.dec.buf b).ev
        { s.dec with state := (decData q s.dec.buf b).state, buf := (decData q s.dec.buf b).buf } ∧
      t.port.rx = none ∧ SameButDec s t := by
  have htaken := takeByteFrom_ready q b s hev
  rw [decStep_data _ _ _ _ hb] at htaken
  exact ⟨takeByteFrom q b s, by rw [exec_decState, decTurnFrom_byte hrx], congrArg State.dec htaken,
    congrArg (·.port.rx) htaken, takeByteFrom_sameButDec q b s⟩

theorem dataByteOf_eq_zero (d : BitVec 7) : dataByteOf d = 0#8 ↔ d = 0#7 := by
  simp [← BitVec.toNat_inj, dataByteOf_toNat]

/-- The event of a velocity byte with this value (R178 to R180). -/
theorem eventOf_dataByteOf (buf : MsgBuf) (d : BitVec 7) : eventOf buf (dataByteOf d) =
    if d = 0#7 ∨ buf.opcode ≠ some .noteOn then .off buf.note buf.instrument
    else .on buf.note buf.instrument (dataByteOf d) := by
  unfold eventOf
  by_cases hop : buf.opcode = some .noteOn <;> by_cases hd : d = 0#7 <;> simp [hop, hd, dataByteOf_eq_zero]

/-- Settles O26, by `decData` in each of the three states. -/
theorem decoderStateRowsFollowTheirOwnRules : Obligations.DecoderStateRowsFollowTheirOwnRules := by
  intro s d hrx hev
  have hrow := exec_decState_data hrx hev (isStatus_dataByteOf d)
  simp only [← dataByteOf_eq_setWidth, ← eventOf_dataByteOf]
  exact ⟨hrow .awaitingStatus, hrow .awaitingNote, hrow .awaitingVelocity⟩

/-! ## Who changes `dec` -/

theorem BusSide.dec {f : State → State} (h : BusSide f) (s : State) : (f s).dec = s.dec := by
  obtain ⟨c', hs⟩ : ∃ c', f s = _ := h s s.chip
  rw [hs]

theorem takePending_dec (s : State) : (takePending s).dec = s.dec ∨
    (s.dec.evValid = true ∧ (takePending s).dec = { s.dec with evValid := false }) := by
  obtain ⟨hev, -, he⟩ | he := takePending_cases s
  · exact .inr ⟨hev, by rw [he, hostTake_dec]⟩
  · exact .inl (by rw [he])

@[simp] theorem handleKeyEvent_dec (s : State) : (handleKeyEvent s).dec = s.dec := by
  unfold handleKeyEvent
  split <;> rfl

@[simp] theorem pollSource_dec (s : State) : (pollSource s).dec = s.dec := by
  unfold pollSource
  split
  · exact handByte_dec s
  · rfl

theorem loopTurn_dec (s : State) : (loopTurn s).dec = s.dec ∨
    (s.dec.evValid = true ∧ (loopTurn s).dec = { s.dec with evValid := false }) := by
  obtain he | he | he | he | he | he := loopTurn_cases s <;> rw [he]
  · exact .inl rfl
  · exact .inl (nextAct_dec s)
  · exact .inl (handleKeyEvent_dec s)
  · exact takePending_dec s
  · exact .inl rfl
  · exact .inl (pollSource_dec s)

/-- All that a move can do to `dec`: nothing; DEC's turn, which `rst` overrides (R247); the reset (R44); a taking of the event (R186). -/
theorem effect_dec_cases (m : Move) (s : State) :
    (m.effect s).dec = s.dec ∨
    (m = .dec ∧ s.port.rst = false ∧ (m.effect s).dec = (decTurnFrom s.dec.state s).dec) ∨
    (m = .rstAssert ∧ (m.effect s).dec = Dec.atReset s.draws) ∨
    ((m = .takeEvent ∨ m = .loop) ∧ s.dec.evValid = true ∧ (m.effect s).dec = { s.dec with evValid := false }) := by
  cases m with
  | dec =>
    cases hr : s.port.rst
    · exact .inr (.inl ⟨rfl, rfl, by simp [Move.effect, hr]⟩)
    · exact .inl (by simp [Move.effect, hr])
  | rstAssert => exact .inr (.inr (.inl ⟨rfl, rfl⟩))
  | takeEvent => exact (takePending_dec s).imp_right fun h => .inr (.inr ⟨.inl rfl, h⟩)
  | loop => exact (loopTurn_dec s).imp_right fun h => .inr (.inr ⟨.inr rfl, h⟩)
  | bus => exact .inl (busTurn_busSide.dec s)
  | address => exact .inl (addressTurn_busSide.dec s)
  | handByte => exact .inl (handByte_dec s)
  | issue => exact .inl (nextAct_dec s)
  | hostInit => exact .inl (hostStart_dec s)
  | rstRelease => exact .inl (rstRelease_dec s)
  | tick | request | receive | setMode | setKeys => exact .inl rfl

/-! ## Who changes the input ports -/

/-- From `s` to `t`, no byte comes to DEC's empty port in matrix mode, and `rst` is not asserted. -/
def NoInput (s t : State) : Prop :=
  (s.env.mode = .matrix → s.port.rx = none → t.port.rx = none) ∧ (s.port.rst = false → t.port.rst = false)

theorem NoInput.of_same {s t : State} (hrx : t.port.rx = s.port.rx) (hrst : t.port.rst = s.port.rst) : NoInput s t :=
  ⟨fun _ h => hrx.trans h, fun h => hrst.trans h⟩

theorem NoInput.of_port {s t : State} (h : t.port = s.port) : NoInput s t := .of_same (by rw [h]) (by rw [h])

theorem takeByteFrom_noInput (q : DecState) (b : Byte) (s : State) : NoInput s (takeByteFrom q b s) := by
  unfold takeByteFrom
  split
  · exact ⟨fun _ _ => rfl, id⟩
  · exact .of_port rfl

theorem decTurn_noInput (s : State) : NoInput s (Move.effect .dec s) := by
  unfold Move.effect decTurnFrom
  dsimp only
  split
  · exact .of_port rfl
  · split
    · exact .of_port rfl
    · exact takeByteFrom_noInput _ _ s

theorem acceptCommand_noInput (w : CmdWord) (s : State) : NoInput s (acceptCommand w s) := by
  unfold acceptCommand
  split <;> exact .of_same rfl rfl

theorem microStep_noInput (p : Phase) (s : State) : NoInput s (microStep p s) := by
  cases p
  case idle =>
    rw [microStep_idle]
    split
    · exact .of_port rfl
    · split
      · exact acceptCommand_noInput _ s
      · exact .of_port rfl
  case w2 | w4 | w6 | w10 | w13 | w15 | x2 => exact .of_port (waitTicks_port _ _ s)
  all_goals exact .of_port rfl

theorem busTurn_noInput (s : State) : NoInput s (Move.effect .bus s) := by
  unfold Move.effect
  dsimp only
  split
  · exact .of_port rfl
  · exact microStep_noInput _ s

theorem addressTurn_noInput (s : State) : NoInput s (Move.effect .address s) := by
  unfold Move.effect
  dsimp only
  split <;> exact .of_port rfl

/-- A byte is handed over in serial mode only (R213). -/
theorem handByte_noInput (s : State) : NoInput s (handByte s) := by
  obtain he | ⟨b, rest, -, -, hmode, -, he⟩ := handByte_cases s <;> rw [he]
  · exact .of_port rfl
  · exact ⟨by simp [hmode], id⟩

theorem nextAct_noInput (s : State) : NoInput s (nextAct s) := by
  unfold nextAct
  split
  · exact .of_port rfl
  · obtain he | ⟨w, rest, -, -, ⟨-, -, he⟩ | ⟨-, he⟩⟩ | ⟨a, rest, -, -, -, -, he⟩ := doNextAct_cases s <;>
      rw [he] <;> exact .of_same rfl rfl

theorem handleKeyEvent_noInput (s : State) : NoInput s (handleKeyEvent s) := by
  unfold handleKeyEvent
  split <;> exact .of_port rfl

theorem pollSource_noInput (s : State) : NoInput s (pollSource s) := by
  unfold pollSource
  split
  · exact handByte_noInput s
  · exact .of_port rfl

theorem loopTurn_noInput (s : State) : NoInput s (loopTurn s) := by
  obtain he | he | he | he | he | he := loopTurn_cases s <;> rw [he]
  · exact .of_port rfl
  · exact nextAct_noInput s
  · exact handleKeyEvent_noInput s
  · exact .of_port (takePending_port s)
  · exact .of_port rfl
  · exact pollSource_noInput s

theorem hostStart_noInput (s : State) : NoInput s (hostStart s) := by
  unfold hostStart
  split <;> exact .of_same rfl rfl

theorem rstRelease_noInput (s : State) : NoInput s (rstRelease s) := by
  unfold rstRelease
  split
  · exact ⟨fun _ => id, fun _ => rfl⟩
  · exact .of_port rfl

theorem effect_noInput {m : Move} (hm : m ≠ .rstAssert) (s : State) : NoInput s (m.effect s) := by
  cases m with
  | rstAssert => contradiction
  | dec => exact decTurn_noInput s
  | bus => exact busTurn_noInput s
  | address => exact addressTurn_noInput s
  | takeEvent => exact .of_port (takePending_port s)
  | handByte => exact handByte_noInput s
  | issue => exact nextAct_noInput s
  | loop => exact loopTurn_noInput s
  | hostInit => exact hostStart_noInput s
  | rstRelease => exact rstRelease_noInput s
  | tick | request | receive | setMode | setKeys => exact .of_port rfl

/-- Settles O10, by who changes `dec` and who changes the ports. -/
theorem onlyDecMovesTakesAndResetTouchTheDecoder : Obligations.OnlyDecMovesTakesAndResetTouchTheDecoder := by
  intro s t h hn
  obtain ⟨-, rfl⟩ | ⟨m, rest, hm, rfl⟩ := step_effect_cases h
  · exact ⟨fun _ => ⟨rfl, rfl, rfl, id⟩, fun _ _ _ => rfl, fun _ => id⟩
  unfold State.notResetting at hn
  simp only [hm, List.head?_cons, ne_eq, Option.some.injEq] at hn ⊢
  have hport := (effect_noInput hn { s with moves := rest }).1
  obtain hd | ⟨rfl, -⟩ | ⟨rfl, -⟩ | ⟨htake, hev, hd⟩ := effect_dec_cases m { s with moves := rest }
  · rw [hd]
    exact ⟨fun _ => ⟨rfl, rfl, rfl, id⟩, fun _ _ _ => rfl, hport⟩
  · exact ⟨absurd rfl, absurd rfl, hport⟩
  · contradiction
  · rw [hd]
    exact ⟨fun _ => ⟨rfl, rfl, rfl, nofun⟩, fun _ hnt hnl => absurd htake (not_or.2 ⟨hnt, hnl⟩), hport⟩

/-! ## The decoder's invariant -/

/-- The part of the decoder's invariant that speaks of the message in progress (R24, R25, R184). -/
def MsgInv (q : DecState) (buf : MsgBuf) : Prop :=
  isStatus buf.note = false ∧ isStatus buf.velocity = false ∧ (q ≠ .awaitingStatus → buf.opcode.isSome = true)

theorem decInv_iff (s : State) : DecInv s ↔
    MsgInv s.dec.state s.dec.buf ∧ (s.dec.evValid = true → s.dec.ev.emittable = true) := by
  simp only [DecInv, MsgInv, and_assoc]

theorem DecInv.of_dec_eq {s t : State} (hi : DecInv s) (h : t.dec = s.dec) : DecInv t := by
  unfold DecInv
  rwa [h]

theorem isStatus_zero : isStatus 0#8 = false := rfl

theorem decStatus_msgInv (p : Params) (buf : MsgBuf) (b : Byte) :
    MsgInv (decStatus p buf b).state (decStatus p buf b).buf := by
  unfold decStatus
  dsimp only
  split
  · exact ⟨isStatus_zero, isStatus_zero, fun _ => rfl⟩
  · split
    · exact ⟨isStatus_zero, isStatus_zero, fun _ => rfl⟩
    · exact ⟨isStatus_zero, isStatus_zero, absurd rfl⟩

theorem decStatus_ev (p : Params) (buf : MsgBuf) (b : Byte) : (decStatus p buf b).ev = none := by
  unfold decStatus
  dsimp only
  split
  · rfl
  · split <;> rfl

theorem decData_msgInv {q : DecState} {buf : MsgBuf} {b : Byte} (hi : MsgInv q buf) (hb : isStatus b = false) :
    MsgInv (decData q buf b).state (decData q buf b).buf := by
  obtain ⟨hnote, hvelocity, hopcode⟩ := hi
  cases q with
  | awaitingStatus => exact ⟨hnote, hvelocity, hopcode⟩
  | awaitingNote => exact ⟨hb, hvelocity, fun _ => hopcode nofun⟩
  | awaitingVelocity => exact ⟨hnote, hb, fun _ => hopcode nofun⟩

theorem eventOf_emittable {buf : MsgBuf} {b : Byte} (hnote : isStatus buf.note = false) (hb : isStatus b = false) :
    (eventOf buf b).emittable = true := by
  unfold eventOf
  split
  · next h => simp [NoteEvent.emittable, hnote, hb, h.2]
  · simp [NoteEvent.emittable, hnote]

theorem decData_emits_emittable {q : DecState} {buf : MsgBuf} {b : Byte} {e : NoteEvent} (hi : MsgInv q buf)
    (hb : isStatus b = false) (he : (decData q buf b).ev = some e) : e.emittable = true := by
  cases q with
  | awaitingStatus | awaitingNote => contradiction
  | awaitingVelocity => exact Option.some.inj he ▸ eventOf_emittable hi.1 hb

/-- `DecStep` keeps the invariant of the message, and what it emits can be emitted (R184, R189). -/
theorem decStep_keeps_msgInv {q : DecState} {buf : MsgBuf} (hi : MsgInv q buf) (p : Params) (b : Byte) :
    MsgInv (decStep p q buf b).state (decStep p q buf b).buf ∧
    ∀ e, (decStep p q buf b).ev = some e → e.emittable = true := by
  cases hb : isStatus b
  · rw [decStep_data p q buf b hb]
    exact ⟨decData_msgInv hi hb, fun _ => decData_emits_emittable hi hb⟩
  · rw [decStep_status p q buf b hb, decStatus_ev]
    exact ⟨decStatus_msgInv p buf b, nofun⟩

theorem takeByteFrom_decInv {s : State} (hi : DecInv s) (b : Byte) : DecInv (takeByteFrom s.dec.state b s) := by
  cases hev : s.dec.evValid
  · obtain ⟨hmsg, hemit⟩ := decStep_keeps_msgInv ((decInv_iff s).1 hi).1 s.params b
    rw [takeByteFrom_ready _ b s hev, decInv_iff]
    cases hout : (decStep s.params s.dec.state s.dec.buf b).ev with
    | none => exact ⟨hmsg, by simp [hev]⟩
    | some e => exact ⟨hmsg, fun _ => hemit e hout⟩
  · rwa [takeByteFrom_waits _ b s hev]

theorem decTurnFrom_decInv {s : State} (hi : DecInv s) : DecInv (decTurnFrom s.dec.state s) := by
  unfold decTurnFrom
  split
  · exact hi
  · exact takeByteFrom_decInv hi _

theorem effect_decInv (m : Move) {s : State} (hi : DecInv s) : DecInv (m.effect s) := by
  obtain hd | ⟨-, -, hd⟩ | ⟨-, hd⟩ | ⟨-, -, hd⟩ := effect_dec_cases m s
  · exact hi.of_dec_eq hd
  · exact (decTurnFrom_decInv hi).of_dec_eq hd
  · rw [decInv_iff, hd]
    exact ⟨⟨isStatus_zero, isStatus_zero, absurd rfl⟩, nofun⟩
  · rw [decInv_iff, hd]
    exact ⟨((decInv_iff s).1 hi).1, nofun⟩

/-- Settles O14, by `decStep_keeps_msgInv` on DEC's turn; the other moves leave the message or clear it. -/
theorem everyStepKeepsTheDecoderInvariant : Obligations.EveryStepKeepsTheDecoderInvariant := by
  intro s t hi h
  obtain ⟨-, rfl⟩ | ⟨m, rest, -, rfl⟩ := step_effect_cases h
  · exact hi
  · exact effect_decInv m (s := { s with moves := rest }) hi

/-! ## The block while `rst` is asserted -/

/-- While `rst` is asserted only its assertion again changes the sequencer or the lines (R247). -/
theorem effect_sequencer_of_rst {m : Move} {s : State} (hr : s.port.rst = true) (hm : m ≠ .rstAssert) :
    (m.effect s).params = s.params ∧ (m.effect s).bus = s.bus ∧ (m.effect s).line = s.line := by
  obtain rfl | rfl | ⟨rfl | rfl, -⟩ | hhost := effect_cases m
  · exact ⟨rfl, rfl, rfl⟩
  · contradiction
  · simp [Move.effect, hr]
  · simp [Move.effect, fetch, hr]
  · obtain ⟨hparams, hbus, hline, -⟩ := hhost.frame s
    exact ⟨hparams, hbus, hline⟩

/-- With `rst` asserted and no event pending, only another assertion of `rst` changes the decoder. -/
theorem effect_dec_of_rst {m : Move} {s : State} (hr : s.port.rst = true) (hev : s.dec.evValid = false)
    (hm : m ≠ .rstAssert) : (m.effect s).dec = s.dec := by
  obtain hd | ⟨-, hr', -⟩ | ⟨rfl, -⟩ | ⟨-, hev', -⟩ := effect_dec_cases m s
  · exact hd
  · simp [hr] at hr'
  · contradiction
  · simp [hev] at hev'

theorem effect_rstInv (m : Move) {s : State} (hi : RstInv s) : RstInv (m.effect s) := by
  by_cases hm : m = .rstAssert
  · subst hm
    exact fun _ => ⟨rfl, rfl, rfl, rfl, rfl⟩
  · intro hrt
    have hr : s.port.rst = true := by
      cases hr : s.port.rst
      · simp [(effect_noInput hm s).2 hr] at hrt
      · rfl
    obtain ⟨hparams, hbus, hline⟩ := effect_sequencer_of_rst hr hm
    obtain ⟨hstate, hbuf, hev, hphase, hreset⟩ := hi hr
    rw [effect_dec_of_rst hr hev hm, hparams, hbus, hline]
    exact ⟨hstate, hbuf, hev, hphase, hreset⟩

/-- Settles O15: the assertion sets the reset values, and while `rst` is asserted the other moves leave them. -/
theorem blockStaysAtResetWhileRstIsAsserted : Obligations.BlockStaysAtResetWhileRstIsAsserted := by
  intro s t hi h
  obtain ⟨-, rfl⟩ | ⟨m, rest, -, rfl⟩ := step_effect_cases h
  · exact hi
  · exact effect_rstInv m (s := { s with moves := rest }) hi

/-! ## The order of the phases -/

theorem microStep_wait {p : Phase} {s : State} {n : Nat} (h : p.wait? s.params = some n) :
    microStep p s = waitTicks n p.succ s := by
  cases p
  case w2 | w4 | w6 | w10 | w13 | w15 | x2 => exact Option.some.inj h ▸ rfl
  all_goals contradiction

theorem microStep_phase_of_no_wait {p : Phase} {s : State} (hp : p ≠ .idle) (h : p.wait? s.params = none) :
    (microStep p s).bus.phase = p.succ := by
  cases p
  case idle | w2 | w4 | w6 | w10 | w13 | w15 | x2 => contradiction
  all_goals rfl

/-- A micro-step goes to the successor, from a wait only once its ticks have elapsed, and otherwise the wait holds (R28, R141). -/
theorem microStep_phase_cases {p : Phase} (hp : p ≠ .idle) (s : State) :
    ((microStep p s).bus.phase = p.succ ∧ ∀ n, p.wait? s.params = some n → n ≤ elapsed s) ∨ microStep p s = s := by
  cases hw : p.wait? s.params with
  | none => exact .inl ⟨microStep_phase_of_no_wait hp hw, nofun⟩
  | some n =>
    rw [microStep_wait hw]
    obtain ⟨hn, he⟩ | ⟨-, he⟩ := waitTicks_cases n p.succ s
    · exact .inl ⟨by rw [he, toPhase_bus], by rintro _ ⟨⟩; exact hn⟩
    · exact .inr he

theorem acceptCommand_phase (w : CmdWord) (s : State) :
    (acceptCommand w s).bus.phase = if w.getLsbD 16 then .x0 else .w0 := by
  unfold acceptCommand
  split <;> rfl

/-- In `Idle` BUS accepts the presented command, if there is one (R120). -/
theorem microStep_idle_cases {s : State} (hp : s.bus.phase = .idle) :
    microStep .idle s = s ∨ ∃ w, s.port.cmd = some w ∧ microStep .idle s = acceptCommand w s := by
  rw [microStep_idle]
  split
  · exact .inl rfl
  · next w hc => exact .inr ⟨w, hc, by simp [cmdReady, hp]⟩

/-- All that BUS's turn can do to the phase; `rst` overrides it (R247). -/
theorem busTurn_phase_cases (s : State) :
    (Move.effect .bus s).bus.phase = s.bus.phase ∨
    (s.bus.phase ≠ .idle ∧ (Move.effect .bus s).bus.phase = s.bus.phase.succ ∧
      ∀ n, s.bus.phase.wait? s.params = some n → n ≤ elapsed s) ∨
    (s.bus.phase = .idle ∧
      ∃ w, s.port.cmd = some w ∧ (Move.effect .bus s).bus.phase = if w.getLsbD 16 then .x0 else .w0) := by
  unfold Move.effect
  dsimp only
  split
  · exact .inl rfl
  · by_cases hp : s.bus.phase = .idle
    · rw [hp]
      obtain he | ⟨w, hc, he⟩ := microStep_idle_cases hp <;> rw [he]
      · exact .inl hp
      · exact .inr (.inr ⟨rfl, w, hc, acceptCommand_phase w s⟩)
    · obtain hsucc | he := microStep_phase_cases hp s
      · exact .inr (.inl ⟨hp, hsucc⟩)
      · exact .inl (by rw [he])

theorem fetch_address_phase {s : State} (h : (fetch .address s).isSome = true) : s.bus.phase = .w7 := by
  unfold fetch fetchAddress at h
  dsimp only at h
  by_contra hp
  simp [hp] at h

/-- Under its other name BUS's turn ends `W7` (R129), or does nothing. -/
theorem addressTurn_phase_cases (s : State) :
    (Move.effect .address s).bus.phase = s.bus.phase ∨
    (s.bus.phase = .w7 ∧ (Move.effect .address s).bus.phase = .w8) := by
  unfold Move.effect
  dsimp only
  split
  · next hf => exact .inr ⟨fetch_address_phase hf, rfl⟩
  · exact .inl rfl

/-- All that a move can do to the phase (R28, R143). -/
theorem effect_phase_cases (m : Move) (s : State) :
    (m.effect s).bus.phase = s.bus.phase ∨
    ((m = .bus ∨ m = .address) ∧ s.bus.phase ≠ .idle ∧ (m.effect s).bus.phase = s.bus.phase.succ ∧
      ∀ n, s.bus.phase.wait? s.params = some n → n ≤ elapsed s) ∨
    (m = .bus ∧ s.bus.phase = .idle ∧
      ∃ w, s.port.cmd = some w ∧ (m.effect s).bus.phase = if w.getLsbD 16 then .x0 else .w0) ∨
    (m = .rstAssert ∧ (m.effect s).bus.phase = .idle) := by
  obtain rfl | rfl | ⟨rfl | rfl, -⟩ | hhost := effect_cases m
  · exact .inl rfl
  · exact .inr (.inr (.inr ⟨rfl, rfl⟩))
  · obtain hsame | hmicro | haccept := busTurn_phase_cases s
    · exact .inl hsame
    · exact .inr (.inl ⟨.inl rfl, hmicro⟩)
    · exact .inr (.inr (.inl ⟨rfl, haccept⟩))
  · obtain hsame | ⟨hp, hw8⟩ := addressTurn_phase_cases s
    · exact .inl hsame
    · exact .inr (.inl ⟨.inr rfl, by simp [hp], by rw [hw8, hp]; rfl, by simp [hp, Phase.wait?]⟩)
  · obtain ⟨-, hbus, -, -⟩ := hhost.frame s
    exact .inl (by rw [hbus])

/-- Settles O40, by `effect_phase_cases`. -/
theorem phaseLeavesItsOrderOnlyByReset : Obligations.PhaseLeavesItsOrderOnlyByReset := by
  intro s t h
  unfold State.busTurn
  obtain ⟨-, rfl⟩ | ⟨m, rest, hm, rfl⟩ := step_effect_cases h
  · exact .inl rfl
  · simpa [hm, elapsed] using effect_phase_cases m { s with moves := rest }

end Sys2Proof.Machine
end

section
/-! PROOFS. The family 20_memory: which rows change the target's registers (R64, R68, R71), and what the end of the address window is
to the target (R99, R129, R152). -/

namespace Sys2Proof.Machine

/-! ## The end of a chip-select window (R152) -/

theorem goodCycle_iff (p : Params) (w : Window) (l : Lines) : goodCycle p w l = true ↔
    w.settled = true ∧ w.steady = true ∧ l.we = .l ∧ dwellFor p l.a0 ≤ w.ticks := by
  simp [goodCycle, and_assoc]

/-- A good address cycle sets the latch and nothing else. -/
theorem Chip.closeWindow_address {p : Params} {l : Lines} {c : Chip} {w : Window} (hw : c.window = some w)
    (hic : l.ic = .deasserted) (ha0 : l.a0 = .l) (hg : goodCycle p w l = true) :
    c.closeWindow p l = { c with window := none, latch := l.d } := by
  rw [Chip.closeWindow_good p l c w hw hic hg, ha0]

/-- A good data cycle writes the latched register and nothing else. -/
theorem Chip.closeWindow_data {p : Params} {l : Lines} {c : Chip} {w : Window} (hw : c.window = some w)
    (hic : l.ic = .deasserted) (ha0 : l.a0 = .h) (hg : goodCycle p w l = true) :
    c.closeWindow p l = { c with window := none, reg := c.reg.write c.regDraw c.latch.toNat l.d } := by
  rw [Chip.closeWindow_good p l c w hw hic hg, ha0]

/-- A bad cycle leaves the target in any state. -/
theorem Chip.closeWindow_bad {p : Params} {l : Lines} {c : Chip} {w : Window} (hw : c.window = some w)
    (hic : l.ic = .deasserted) (hg : goodCycle p w l ≠ true) :
    c.closeWindow p l = { c with window := none }.anyValue := by
  simp [Chip.closeWindow, hw, hic, hg]

/-! ## Reading the target's registers -/

theorem SameMemory.of_chip {s t : State} (hreg : t.chip.reg = s.chip.reg) (hdraw : t.chip.regDraw = s.chip.regDraw) :
    SameMemory s t := by
  intro a
  rw [chipRead, hreg, hdraw, chipRead]

theorem SameMemory.of_chip_eq {s t : State} (h : t.chip = s.chip) : SameMemory s t := .of_chip (by rw [h]) (by rw [h])

/-! ## The micro-steps and the target -/

theorem Chip.observe_refl (p : Params) (l : Lines) (c : Chip) : c.observe p l l = c := by
  simp [Chip.observe_sameCs, Lines.sameBus]

/-- Outside `X0` and `X3` the target sees of a micro-step only how it moves the lines (R152). -/
theorem microStep_chip {p : Phase} (h0 : p ≠ .x0) (h3 : p ≠ .x3) (s : State) :
    (microStep p s).chip = s.chip.observe s.params s.line (microStep p s).line := by
  cases p
  case x0 | x3 => contradiction
  case idle =>
    rw [microStep_idle]
    split
    · rw [Chip.observe_refl]
    · split
      · rw [acceptCommand_chip, acceptCommand_line, Chip.observe_refl]
      · rw [Chip.observe_refl]
  case w2 | w4 | w6 | w10 | w13 | w15 | x2 =>
    rw [microStep_wait rfl, waitTicks_chip, waitTicks_line, Chip.observe_refl]
  all_goals rfl

theorem BusInv.lines {s : State} (hi : BusInv s) : linesFor s.params s.bus.phase s.bus s.line := by
  obtain ⟨-, -, hlines, -⟩ := hi
  exact hlines

/-- Chip-select is asserted from the end of `W5` to `W7`, and from the end of `W14` to `W16` (R127, R129, R136, R138). -/
theorem linesFor_selected {p : Params} {ph : Phase} {b : Bus} {l : Lines} (h : linesFor p ph b l) (hcs : l.cs = .asserted) :
    ph = .w6 ∨ ph = .w7 ∨ ph = .w15 ∨ ph = .w16 := by
  cases ph
  case w6 | w7 | w15 | w16 => decide
  all_goals simp [linesFor, hcs] at h

/-! ## The end of the address window (R129) -/

theorem deselectAddress_sameButBus (s : State) : SameButBus s (deselectAddress s) := ⟨rfl, rfl, rfl, rfl, rfl, rfl, rfl⟩

theorem deselectAddress_chip_selected {s : State} (hcs : s.line.cs = .asserted) :
    (deselectAddress s).chip = s.chip.closeWindow s.params s.line :=
  Chip.observe_closes _ _ _ _ (by simp [Lines.sameBus]) hcs nofun

theorem deselectAddress_of_goodAddress {s : State} {w : Window} (hcs : s.line.cs = .asserted) (hic : s.line.ic = .deasserted)
    (hw : s.chip.window = some w) (ha0 : s.line.a0 = .l) (hg : goodCycle s.params w s.line = true) :
    (deselectAddress s).chip.latch = s.line.d ∧ SameMemory s (deselectAddress s) := by
  have hchip := deselectAddress_chip_selected hcs
  rw [Chip.closeWindow_address hw hic ha0 hg] at hchip
  exact ⟨by rw [hchip], .of_chip (by rw [hchip]) (by rw [hchip])⟩

theorem deselectAddress_of_goodData {s : State} {w : Window} (hcs : s.line.cs = .asserted) (hic : s.line.ic = .deasserted)
    (hw : s.chip.window = some w) (ha0 : s.line.a0 = .h) (hg : goodCycle s.params w s.line = true) :
    (deselectAddress s).chip.latch = s.chip.latch ∧
    ∀ b : Byte, chipRead (deselectAddress s) b = if b = s.chip.latch then s.line.d else chipRead s b := by
  have hchip := deselectAddress_chip_selected hcs
  rw [Chip.closeWindow_data hw hic ha0 hg] at hchip
  refine ⟨by rw [hchip], fun b => ?_⟩
  rw [chipRead, hchip, Memory.read_write]
  simp only [BitVec.toNat_inj, chipRead]

theorem deselectAddress_of_bad {s : State} {w : Window} (hcs : s.line.cs = .asserted) (hic : s.line.ic = .deasserted)
    (hw : s.chip.window = some w) (hg : goodCycle s.params w s.line ≠ true) :
    (deselectAddress s).chip.latch = Config.chipByte s.chip.draws ∧
    ∀ b : Byte, chipRead (deselectAddress s) b = Config.chipReg s.chip.draws b.toNat := by
  have hchip := deselectAddress_chip_selected hcs
  rw [Chip.closeWindow_bad hw hic hg] at hchip
  exact ⟨by rw [hchip]; rfl, fun b => by rw [chipRead, hchip]; rfl⟩

/-- The end of a window that has no effect: the target is held in reset, or there is no window. -/
theorem deselectAddress_sameButLines {s : State} (h : s.line.ic = .asserted ∨ s.line.cs ≠ .asserted) :
    SameButLines s (deselectAddress s) := by
  refine ⟨deselectAddress_sameButBus s, ?_⟩
  by_cases hcs : s.line.cs = .asserted
  · have hic : s.line.ic = .asserted := h.resolve_right (absurd hcs)
    have hchip := deselectAddress_chip_selected hcs
    rw [Chip.closeWindow_inReset _ _ _ hic] at hchip
    exact ⟨by rw [hchip], .of_chip (by rw [hchip]) (by rw [hchip])⟩
  · obtain ⟨hlatch, hreg, hdraw⟩ :=
      Chip.observe_keeps s.params s.line { s.line with cs := .deasserted } s.chip (absurd · hcs)
    exact ⟨hlatch, .of_chip hreg hdraw⟩

/-- In the protocol the window that `W7` ends is a good address window, or the target is held in reset (R144, R152). -/
theorem deselectAddress_sameMemory {s : State} (hi : BusInv s) (hp : s.bus.phase = .w7) :
    SameMemory s (deselectAddress s) := by
  obtain ⟨-, -, hlines, -, hwindow, -, -⟩ := hi
  simp only [linesFor, windowFor, hp] at hlines hwindow
  obtain ⟨hwe, ha0, hcs, -⟩ := hlines
  cases hic : s.line.ic with
  | asserted => exact (deselectAddress_sameButLines (.inl hic)).2.2
  | deasserted =>
    cases hw : s.chip.window with
    | none => simp [hw, Window.goodFor] at hwindow
    | some w =>
      rw [hw] at hwindow
      obtain ⟨hsettled, hsteady, hdwell⟩ := hwindow
      have hg : goodCycle s.params w s.line = true :=
        (goodCycle_iff _ _ _).2 ⟨hsettled, hsteady, hwe, by rwa [ha0]⟩
      exact (deselectAddress_of_goodAddress hcs hic hw ha0 hg).2

/-- Settles O51: the row is `W7`, and the window that it ends is good, bad, or without effect (R152). -/
theorem targetLatchesFromAnAddressWindow : Obligations.TargetLatchesFromAnAddressWindow := by
  intro s i a hi
  refine ⟨fun hp hd => ?_, fun hno => by rw [exec_address hi, latchRow, if_neg (by tauto)]⟩
  have hrow : exec i s = .next (deselectAddress s) := by rw [exec_address hi, latchRow, if_pos ⟨hp, hd⟩]
  refine ⟨hrow, _, hrow, rfl, rfl, deselectAddress_sameButBus s, ?_, deselectAddress_sameButLines⟩
  intro w hcs hic hw
  subst hd
  refine ⟨fun hwe ha0 hsettled hsteady hdwell => ?_, fun hwe ha0 hsettled hsteady hdwell => ?_, fun hbad => ?_⟩
  · exact deselectAddress_of_goodAddress hcs hic hw ha0
      ((goodCycle_iff _ _ _).2 ⟨hsettled, hsteady, hwe, by rwa [ha0]⟩)
  · exact deselectAddress_of_goodData hcs hic hw ha0
      ((goodCycle_iff _ _ _).2 ⟨hsettled, hsteady, hwe, by rwa [ha0]⟩)
  · refine deselectAddress_of_bad hcs hic hw fun hg => ?_
    obtain ⟨hsettled, hsteady, hwe, hdwell⟩ := (goodCycle_iff _ _ _).1 hg
    obtain h | h | h | ⟨ha0, hshort⟩ | ⟨ha0, hshort⟩ := hbad
    · exact h hwe
    · simp [hsettled] at h
    · simp [hsteady] at h
    all_goals
      rw [ha0] at hdwell
      exact absurd hdwell (Nat.not_le.2 hshort)

/-! ## Which rows change the registers (R64, R68, R71) -/

/-- In its own phase, only the row of a data window's end or of a change of the target's reset changes a register. -/
theorem microStep_sameMemory {s : State} (hi : BusInv s) (h16 : s.bus.phase ≠ .w16) (h0 : s.bus.phase ≠ .x0)
    (h3 : s.bus.phase ≠ .x3) : SameMemory s (microStep s.bus.phase s) := by
  by_cases hcs : s.line.cs = .asserted
  · obtain hp | hp | hp | hp := linesFor_selected hi.lines hcs
    · rw [hp, microStep_wait rfl]
      exact .of_chip_eq (waitTicks_chip _ _ s)
    · rw [hp]
      exact deselectAddress_sameMemory hi hp
    · rw [hp, microStep_wait rfl]
      exact .of_chip_eq (waitTicks_chip _ _ s)
    · contradiction
  · obtain ⟨-, hreg, hdraw⟩ :=
      Chip.observe_keeps s.params s.line (microStep s.bus.phase s).line s.chip (absurd · hcs)
    rw [← microStep_chip h0 h3] at hreg hdraw
    exact .of_chip hreg hdraw

/-- Among the rows that are no phase, only an address row that ends the address window tells the target anything. -/
theorem exec_chip_cases {i : Instr} {s t : State} (hf : i.format ≠ .busPhase) (h : exec i s = .next t) :
    t.chip = s.chip ∨ (s.bus.phase = .w7 ∧ t = deselectAddress s) := by
  cases i with
  | noteOffStatus | noteOnStatus | unrecognisedStatusA | unrecognisedStatusB | unrecognisedStatusC | unrecognisedStatusD
  | unrecognisedStatusE | unrecognisedStatusF | dataByte =>
    obtain rfl := Host.Outcome.next.inj ((exec_byte rfl s).symm.trans h)
    exact .inl (takeByte_chip _ s)
  | write | chipReset =>
    obtain ⟨-, he⟩ | ⟨-, he⟩ := runCommand_cases _ s
    · obtain rfl := Host.Outcome.next.inj (he.symm.trans h)
      exact .inl (acceptCommand_chip _ s)
    · exact absurd (he.symm.trans h) nofun
  | stateAwaitingStatus | stateAwaitingNote | stateAwaitingVelocity =>
    obtain rfl := Host.Outcome.next.inj h
    exact .inl (decTurnFrom_chip _ s)
  | regRhythmDisable | regFreqLow | regOctGate | regInstVol =>
    obtain rfl := Host.Outcome.next.inj ((exec_address rfl s).symm.trans h)
    obtain ⟨hp, -, he⟩ | ⟨-, he⟩ := latchRow_cases _ s
    · exact .inr ⟨hp, he⟩
    · exact .inl (by rw [he])
  | eventOff | eventOn =>
    obtain rfl := Host.Outcome.next.inj h
    exact .inl (takeWhenFree_chip _ s)
  | _ => exact absurd rfl hf

/-- Settles O44: a phase row is its phase's micro-step, and of the other rows only an address row reaches the target. -/
theorem onlyDataWindowsAndResetsChangeTheMemory : Obligations.OnlyDataWindowsAndResetsChangeTheMemory := by
  intro s t i hi hphase h16 h0 h3 h
  by_cases hf : i.format = .busPhase
  · obtain rfl := hphase hf
    obtain rfl := Host.Outcome.next.inj ((exec_phase s.bus.phase s).symm.trans h)
    exact microStep_sameMemory hi (fun hp => h16 (by rw [hp]; rfl)) (fun hp => h0 (by rw [hp]; rfl))
      (fun hp => h3 (by rw [hp]; rfl))
  · obtain hchip | ⟨hp, rfl⟩ := exec_chip_cases hf h
    · exact .of_chip_eq hchip
    · exact deselectAddress_sameMemory hi hp

end Sys2Proof.Machine
end

section
/-! PROOFS. The family 30_encoding: each row's word in its format decodes to the row (R90 to R100), every byte and every command word
has a row (R96, R101), the packed event (R97), the phase numbers (R98), and the status rows under the default nibbles (R92, R93). -/

namespace Sys2Proof.Machine

/-! ## The encoder by format: a row's word is the word its format's agent reads -/

theorem encode_of_byte? {i : Instr} {b : Byte} (h : i.byte? = some b) : i.format = .inputByte ∧ encode i = b.toNat := by
  cases i <;> simp only [Instr.byte?, Option.some.injEq, reduceCtorEq] at h <;> subst h <;> exact ⟨rfl, rfl⟩

theorem encode_of_address? {i : Instr} {a : Byte} (h : i.address? = some a) :
    i.format = .targetAddress ∧ encode i = a.toNat := by
  cases i <;> simp only [Instr.address?, Option.some.injEq, reduceCtorEq] at h <;> subst h <;> exact ⟨rfl, rfl⟩

/-- A data byte after other bits: bit 7, clear, and then its value. -/
theorem append_dataByteOf {w : Nat} (y : BitVec w) (d : BitVec 7) : y ++ dataByteOf d = y ++ 0#1 ++ d :=
  BitVec.append_assoc'.trans (BitVec.cast_eq _ _)

theorem encode_of_instr? {e : NoteEvent} {i : Instr} (h : e.instr? = some i) :
    i.format = .noteEvent ∧ encode i = e.pack.toNat := by
  obtain ⟨x, n, rfl, rfl⟩ | ⟨x, n, v, rfl, rfl⟩ := (instr?_eq_some e i).1 h
  · refine ⟨rfl, ?_⟩
    show _ = (0#1 ++ x ++ dataByteOf n ++ 0#8).toNat
    rw [append_dataByteOf]; rfl
  · refine ⟨rfl, ?_⟩
    show _ = (1#1 ++ x ++ dataByteOf n ++ dataByteOf v).toNat
    rw [append_dataByteOf, append_dataByteOf]; rfl

/-- The two forms of a command word (R96). -/
theorem commandWord_cases (w : CmdWord) : (∃ x, w = chipResetWord x) ∨ ∃ a d, w = writeWord a d := by
  by_cases h : 65536 ≤ w.toNat
  · refine .inl ⟨w.extractLsb' 0 16, BitVec.eq_of_toNat_eq ?_⟩
    rw [chipResetWord_toNat, BitVec.extractLsb'_toNat, Nat.shiftRight_zero]
    omega
  · refine .inr ⟨w.extractLsb' 8 8, w.extractLsb' 0 8, BitVec.eq_of_toNat_eq ?_⟩
    rw [writeWord_toNat, BitVec.extractLsb'_toNat, BitVec.extractLsb'_toNat, Nat.shiftRight_eq_div_pow, Nat.shiftRight_zero]
    omega

theorem encode_decodeCommand (w : CmdWord) :
    (decodeCommand w).format = .busCommand ∧ encode (decodeCommand w) = w.toNat := by
  obtain ⟨x, rfl⟩ | ⟨a, d, rfl⟩ := commandWord_cases w
  · rw [decodeCommand_chipResetWord]; exact ⟨rfl, rfl⟩
  · rw [decodeCommand_writeWord]; exact ⟨rfl, rfl⟩

/-! ## Decoding a row's word, by format -/

theorem decode_encode_of_byte? {i : Instr} {b : Byte} (h : i.byte? = some b) : decode i.format (encode i) = .ok i := by
  obtain ⟨hformat, hword⟩ := encode_of_byte? h
  rw [hformat, hword, decode_inputByte, decodeInputByte_of_byte? h]

theorem decode_encode_of_command {i : Instr} {w : CmdWord} (h : decodeCommand w = i) :
    decode i.format (encode i) = .ok i := by
  obtain ⟨hformat, hword⟩ := encode_decodeCommand w
  rw [← h, hformat, hword, decode_busCommand]

theorem decode_encode_of_address? {i : Instr} {a : Byte} (h : i.address? = some a) :
    decode i.format (encode i) = .ok i := by
  obtain ⟨hformat, hword⟩ := encode_of_address? h
  simp [hformat, hword, decode, Format.width, a.isLt, (decodeTarget_eq_some a i).2 h]

theorem decode_encode_of_instr? {e : NoteEvent} {i : Instr} (h : e.instr? = some i) :
    decode i.format (encode i) = .ok i := by
  obtain ⟨hformat, hword⟩ := encode_of_instr? h
  rw [NoteEvent.instr?] at h
  simp [hformat, hword, decode, Format.width, e.pack.isLt, h]

/-- Settles O2: each row is the one its format's decoder reads from the row's word; a row without an operand (a phase, a decoder state)
has one word, which evaluates. The row of an `On` event with velocity 0, which the premise excludes, would decode too. -/
theorem decodeUndoesEncode : Obligations.DecodeUndoesEncode := by
  intro i _
  cases i with
  | noteOffStatus | noteOnStatus | unrecognisedStatusA | unrecognisedStatusB | unrecognisedStatusC | unrecognisedStatusD
  | unrecognisedStatusE | unrecognisedStatusF | dataByte => exact decode_encode_of_byte? rfl
  | write a d => exact decode_encode_of_command (decodeCommand_writeWord a d)
  | chipReset x => exact decode_encode_of_command (decodeCommand_chipResetWord x)
  | regRhythmDisable | regFreqLow | regOctGate | regInstVol => exact decode_encode_of_address? rfl
  | eventOff x n => exact decode_encode_of_instr? ((instr?_eq_some _ _).2 (.inl ⟨x, n, rfl, rfl⟩))
  | eventOn x n v => exact decode_encode_of_instr? ((instr?_eq_some _ _).2 (.inr ⟨x, n, v, rfl, rfl⟩))
  | _ => rfl

/-- Settles O3: a word is the word of the row it decodes to. -/
theorem everyByteAndEveryCommandWordHasItsRow : Obligations.EveryByteAndEveryCommandWordHasItsRow := by
  constructor
  · intro b
    obtain ⟨hformat, hword⟩ := encode_of_byte? (byte?_decodeInputByte b)
    exact ⟨decode_inputByte b, hword, hformat⟩
  · intro w
    obtain ⟨hformat, hword⟩ := encode_decodeCommand w
    exact ⟨decode_busCommand w, hword, hformat⟩

/-! ## The packed event -/

theorem pack_kindBit_iff (e : NoteEvent) : e.pack.getLsbD 20 = true ↔ ∃ n x v, e = .on n x v := by
  rw [pack_kindBit]
  cases e <;> simp [NoteEvent.kind]

theorem pack_note (e : NoteEvent) : e.pack.extractLsb' 8 8 = e.note := by
  apply BitVec.eq_of_toNat_eq
  rw [BitVec.extractLsb'_toNat, pack_toNat, Nat.shiftRight_eq_div_pow]
  omega

/-- The row of an `On` event with data bytes (R97). -/
theorem instr?_on {n v : Byte} (hn : isStatus n = false) (hv : isStatus v = false) (x : Nibble) :
    (NoteEvent.on n x v).instr? = some (.eventOn x (n.extractLsb' 0 7) (v.extractLsb' 0 7)) :=
  (instr?_eq_some _ _).2 (.inr ⟨x, _, _, rfl, by rw [dataByteOf_extract hn, dataByteOf_extract hv]⟩)

/-- The row of an `Off` event with a data byte as its note (R97). -/
theorem instr?_off {n : Byte} (hn : isStatus n = false) (x : Nibble) :
    (NoteEvent.off n x).instr? = some (.eventOff x (n.extractLsb' 0 7)) :=
  (instr?_eq_some _ _).2 (.inl ⟨x, _, rfl, by rw [dataByteOf_extract hn]⟩)

/-- A data byte above 0 has a value above 0. -/
theorem extract_ne_zero {v : Byte} (hv : isStatus v = false) (h0 : v ≠ 0#8) : v.extractLsb' 0 7 ≠ 0#7 := by
  rwa [ne_eq, ← dataByteOf_eq_zero, dataByteOf_extract hv]

/-- Settles O4: the fields by place, and an emittable event's row from its data bytes. -/
theorem eventPortPacksItsFields : Obligations.EventPortPacksItsFields := by
  intro e
  obtain ⟨hinstrument, -, -, hvelocity⟩ := pack_fields e
  refine ⟨pack_kindBit_iff e, hinstrument, pack_note e, hvelocity, fun he => ?_⟩
  cases e with
  | on n x v =>
    obtain ⟨⟨hn, hv⟩, h0⟩ : (isStatus n = false ∧ isStatus v = false) ∧ v ≠ 0#8 := by
      simpa [NoteEvent.emittable] using he
    refine ⟨_, instr?_on hn hv x, bne_iff_ne.2 (extract_ne_zero hv h0), ?_, nofun⟩
    rintro n x v ⟨⟩
    rfl
  | off n x =>
    have hn : isStatus n = false := by simpa [NoteEvent.emittable] using he
    refine ⟨_, instr?_off hn x, rfl, nofun, ?_⟩
    rintro n x ⟨⟩
    rfl

/-! ## Phase numbers -/

/-- R28 lists the phases in the order of their numbers. -/
theorem Phase.number_eq_ctorIdx (p : Phase) : p.number = p.ctorIdx := by
  cases p <;> rfl

theorem Phase.number_lt (p : Phase) : p.number < 24 := by
  cases p <;> decide

theorem decodePhase_number (p : Phase) : decodePhase p.number = some p.instr := by
  cases p <;> rfl

theorem Phase.number_injective {p q : Phase} (h : p.number = q.number) : p = q := by
  rw [Phase.number_eq_ctorIdx, Phase.number_eq_ctorIdx] at h
  rw [← Phase.ofNat_ctorIdx p, h, Phase.ofNat_ctorIdx]

theorem Phase.succ_number {p : Phase} (hidle : p ≠ .idle) (h18 : p ≠ .w18) (h3 : p ≠ .x3) :
    p.succ.number = p.number + 1 := by
  cases p with
  | idle => exact absurd rfl hidle
  | w18 => exact absurd rfl h18
  | x3 => exact absurd rfl h3
  | _ => rfl

/-- Settles O5: the numbers and the successor, phase by phase. -/
theorem phaseNumbersFollowTheSequence : Obligations.PhaseNumbersFollowTheSequence :=
  ⟨rfl, rfl, rfl, rfl, rfl, fun p => ⟨p.number_lt, decodePhase_number p⟩, fun _ _ => Phase.number_injective,
    fun _ => Phase.succ_number, rfl, rfl⟩

/-! ## Written-out words -/

/-- Settles O1: the words are closed, so the decoder's own evaluation decides each. -/
theorem decodingReadsTheRowOfTheSpec : Obligations.DecodingReadsTheRowOfTheSpec := by
  unfold Obligations.DecodingReadsTheRowOfTheSpec
  decide

/-! ## Status bytes (R171 to R175) -/

theorem decStatus_noteOn {p : Params} {b : Byte} (h : opcodeNibble b = p.noteOnNibble) (buf : MsgBuf) :
    decStatus p buf b = ⟨.awaitingNote, ⟨some .noteOn, instrumentOf b, 0#8, 0#8⟩, none⟩ := by
  simp [decStatus, h, startMessage]

theorem decStatus_noteOff {p : Params} {b : Byte} (h : opcodeNibble b = p.noteOffNibble)
    (hne : p.noteOffNibble ≠ p.noteOnNibble) (buf : MsgBuf) :
    decStatus p buf b = ⟨.awaitingNote, ⟨some .noteOff, instrumentOf b, 0#8, 0#8⟩, none⟩ := by
  simp [decStatus, h, hne, startMessage]

theorem decStatus_unrecognised {p : Params} {b : Byte} (hon : opcodeNibble b ≠ p.noteOnNibble)
    (hoff : opcodeNibble b ≠ p.noteOffNibble) (buf : MsgBuf) :
    decStatus p buf b = ⟨.awaitingStatus, ⟨none, 0#4, 0#8, 0#8⟩, none⟩ := by
  simp [decStatus, hon, hoff, raiseMalformedByte]

/-- A status row, in any state: `dec.state` and the buffer follow `decStatus`, and no event is emitted. -/
theorem exec_statusByte {i : Instr} {b : Byte} {s : State} (h : i.byte? = some b) (hb : isStatus b = true)
    (hev : s.dec.evValid = false) : ∃ t, exec i s = .next t ∧
      t.dec = { s.dec with
        state := (decStatus s.params s.dec.buf b).state, buf := (decStatus s.params s.dec.buf b).buf } ∧
      t.port.rx = none ∧ SameButDec s t := by
  have htaken : takeByte b s = _ := takeByteFrom_ready s.dec.state b s hev
  rw [decStep_status _ _ _ _ hb, decStatus_ev] at htaken
  exact ⟨takeByte b s, exec_byte h s, congrArg State.dec htaken, congrArg (·.port.rx) htaken,
    takeByteFrom_sameButDec s.dec.state b s⟩

/-- `exec_statusByte` for an answer of `decStatus` that is known. -/
theorem exec_statusByte_of_decStatus {i : Instr} {b : Byte} {s : State} {q : DecState} {buf : MsgBuf} {e : Option NoteEvent}
    (h : i.byte? = some b) (hb : isStatus b = true) (hev : s.dec.evValid = false)
    (hout : decStatus s.params s.dec.buf b = ⟨q, buf, e⟩) : ∃ t, exec i s = .next t ∧ t.dec.state = q ∧ t.dec.buf = buf ∧
      t.dec.evValid = false ∧ SameButDec s t := by
  obtain ⟨t, ht, hdec, -, hsame⟩ := exec_statusByte h hb hev
  rw [hout] at hdec
  exact ⟨t, ht, by rw [hdec], by rw [hdec], by rw [hdec]; exact hev, hsame⟩

theorem isStatus_statusByte (hi lo : Nibble) : isStatus (statusByte hi lo) = hi.getLsbD 3 := statusByte_classBit hi lo

/-- The six rows of R93 are the status bytes whose high nibble is neither default. -/
theorem byte?_unrecognised {i : Instr} {x : Nibble} (h : i ∈ [Instr.unrecognisedStatusA x, .unrecognisedStatusB x,
      .unrecognisedStatusC x, .unrecognisedStatusD x, .unrecognisedStatusE x, .unrecognisedStatusF x]) :
    ∃ hi : Nibble, i.byte? = some (statusByte hi x) ∧ hi.getLsbD 3 = true ∧ hi ≠ 0x9#4 ∧ hi ≠ 0x8#4 := by
  simp only [List.mem_cons, List.not_mem_nil, or_false] at h
  obtain rfl | rfl | rfl | rfl | rfl | rfl := h
  · exact ⟨0xA#4, rfl, by decide⟩
  · exact ⟨0xB#4, rfl, by decide⟩
  · exact ⟨0xC#4, rfl, by decide⟩
  · exact ⟨0xD#4, rfl, by decide⟩
  · exact ⟨0xE#4, rfl, by decide⟩
  · exact ⟨0xF#4, rfl, by decide⟩

/-- Settles O20: each row's nibble against the two default nibbles. -/
theorem statusRowsUnderTheDefaultNibbles : Obligations.StatusRowsUnderTheDefaultNibbles := by
  intro s x hon hoff hev
  refine ⟨?_, ?_, ?_⟩
  · have hout := decStatus_noteOn (p := s.params) ((opcodeNibble_statusByte 0x9#4 x).trans hon.symm) s.dec.buf
    rw [instrumentOf_statusByte] at hout
    exact exec_statusByte_of_decStatus rfl (isStatus_statusByte _ x) hev hout
  · have hout := decStatus_noteOff (p := s.params) ((opcodeNibble_statusByte 0x8#4 x).trans hoff.symm)
      (by rw [hon, hoff]; decide) s.dec.buf
    rw [instrumentOf_statusByte] at hout
    exact exec_statusByte_of_decStatus rfl (isStatus_statusByte _ x) hev hout
  · intro i hi
    obtain ⟨hi, hbyte, htop, h9, h8⟩ := byte?_unrecognised hi
    refine exec_statusByte_of_decStatus hbyte ((isStatus_statusByte hi x).trans htop) hev (decStatus_unrecognised ?_ ?_ _)
    · rwa [opcodeNibble_statusByte, hon]
    · rwa [opcodeNibble_statusByte, hoff]

end Sys2Proof.Machine
end

section
/-! PROOFS. The family 40_bus_write: what BUS's turn makes of the lines, the observer and the ports (R120 to R140, R146 to R149), the
sequencer's invariant (R144, R152), the waits (R141, R142), what a command owes (R145), and the earliest run of each command. -/

namespace Sys2Proof.Machine

/-! ## A micro-step by its lines and its phase

Every micro-step is a change of the lines, possibly none, and a change of the phase. The two are said once; what the target sees of
it is `microStep_chip`. -/

/-- The lines that the micro-step of a phase drives (R122 to R140, R146 to R149); `microStep_line` ties it to `microStep`. -/
def Phase.drives (p : Params) (b : Bus) (l : Lines) : Phase → Lines
  | .w0 | .w12 => { l with we := .l }
  | .w1 => { l with a0 := .l }
  | .w3 => { l with d := b.addr }
  | .w5 | .w14 => { l with cs := .asserted }
  | .w7 | .w16 => { l with cs := .deasserted }
  | .w8 => { l with a0 := .h }
  | .w9 => { l with we := .h }
  | .w11 => { l with d := b.data }
  | .w17 => { l with we := .idle }
  | .w18 => { l with cs := .idle }
  | .x0 => { l with ic := .asserted }
  | .x1 => l.park p
  | .x3 => { l with ic := .deasserted }
  | .idle | .w2 | .w4 | .w6 | .w10 | .w13 | .w15 | .x2 => l

theorem microStep_line (p : Phase) (s : State) : (microStep p s).line = p.drives s.params s.bus s.line := by
  cases p
  case idle =>
    rw [microStep_idle]
    split
    · rfl
    · split
      · exact acceptCommand_line _ s
      · rfl
  case w2 | w4 | w6 | w10 | w13 | w15 | x2 => exact waitTicks_line _ _ s
  all_goals rfl

/-- The wait of the present phase, if it is one, has had its ticks (R141). -/
def WaitOver (s : State) : Prop := ∀ n, s.bus.phase.wait? s.params = some n → n ≤ elapsed s

/-- `bus` after a micro-step that goes on: the successor is entered, and a wait among the successors samples the tick (R30). -/
theorem microStep_bus {s : State} (hp : s.bus.phase ≠ .idle) (hw : WaitOver s) :
    (microStep s.bus.phase s).bus = { s.bus with
      phase := s.bus.phase.succ
      t0 := if (s.bus.phase.succ.wait? s.params).isSome then s.tick else s.bus.t0 } := by
  unfold WaitOver at hw
  generalize hph : s.bus.phase = ph at hp hw
  cases ph
  case idle => contradiction
  case w2 | w4 | w6 | w10 | w13 | w15 | x2 =>
    rw [microStep_wait rfl, waitTicks, if_pos (hw _ rfl)]
    rfl
  all_goals rfl

theorem microStep_sameButBus {p : Phase} (hp : p ≠ .idle) (s : State) : SameButBus s (microStep p s) := by
  cases p
  case idle => contradiction
  case w2 | w4 | w6 | w10 | w13 | w15 | x2 =>
    exact ⟨waitTicks_params .., waitTicks_dec .., waitTicks_tick .., waitTicks_port .., waitTicks_env .., waitTicks_moves ..,
      waitTicks_draws ..⟩
  all_goals exact ⟨rfl, rfl, rfl, rfl, rfl, rfl, rfl⟩

/-- Nothing of the sequencer, the lines, the tick or the target differs. -/
def SameSequencer (s t : State) : Prop :=
  t.params = s.params ∧ t.bus = s.bus ∧ t.line = s.line ∧ t.tick = s.tick ∧ t.chip = s.chip

theorem SameSequencer.refl (s : State) : SameSequencer s s := ⟨rfl, rfl, rfl, rfl, rfl⟩

theorem HostSide.sameSequencer {f : State → State} (h : HostSide f) (s : State) : SameSequencer s (f s) := by
  have hs : f s = _ := h s s.chip
  rw [hs]
  exact ⟨rfl, rfl, rfl, rfl, rfl⟩

/-- BUS goes on by a micro-step: not while `rst` is asserted (R247), and from a wait only when it is over. -/
structure GoesOn (s : State) : Prop where
  released : s.port.rst = false
  busy : s.bus.phase ≠ .idle
  waited : WaitOver s

theorem GoesOn.withMoves {s : State} (h : GoesOn s) (rest : List Move) : GoesOn { s with moves := rest } :=
  ⟨h.released, h.busy, h.waited⟩

theorem effect_bus_of_released {s : State} (h : s.port.rst = false) :
    Move.effect .bus s = microStep s.bus.phase s := by
  simp [Move.effect, h]

theorem microStep_wait_holds {s : State} (h : ¬ WaitOver s) : microStep s.bus.phase s = s := by
  obtain ⟨n, hn, hlt⟩ : ∃ n, s.bus.phase.wait? s.params = some n ∧ elapsed s < n := by
    simpa [WaitOver] using h
  rw [microStep_wait hn, waitTicks, if_neg (by omega)]

theorem busTurn_sequencer_cases (s : State) :
    Move.effect .bus s = s ∨
    (GoesOn s ∧ Move.effect .bus s = microStep s.bus.phase s) ∨
    (s.port.rst = false ∧ s.bus.phase = .idle ∧ ∃ w, s.port.cmd = some w ∧ Move.effect .bus s = acceptCommand w s) := by
  cases hr : s.port.rst with
  | true => exact .inl (by simp [Move.effect, hr])
  | false =>
    rw [effect_bus_of_released hr]
    by_cases hp : s.bus.phase = .idle
    · rw [hp]
      exact (microStep_idle_cases hp).imp_right fun h => .inr ⟨rfl, rfl, h⟩
    · by_cases hw : WaitOver s
      · exact .inr (.inl ⟨⟨hr, hp, hw⟩, rfl⟩)
      · exact .inl (microStep_wait_holds hw)

theorem addressTurn_sequencer_cases (s : State) :
    Move.effect .address s = s ∨ (GoesOn s ∧ Move.effect .address s = microStep s.bus.phase s) := by
  by_cases hf : (fetch .address s).isSome = true
  · have hp := fetch_address_phase hf
    have hr : s.port.rst = false := by
      cases hr : s.port.rst
      · rfl
      · simp [fetch, hr] at hf
    refine .inr ⟨⟨hr, by simp [hp], by simp [WaitOver, hp, Phase.wait?]⟩, ?_⟩
    rw [Move.effect, if_pos hf, hp]
    rfl
  · exact .inl (by rw [Move.effect, if_neg hf])

/-- All that a move can do to the sequencer, the lines and the target, besides a tick and the assertion of `rst`: nothing; the
micro-step of the phase; the acceptance of the presented command. -/
theorem effect_sequencer_cases (m : Move) (s : State) :
    m = .tick ∨ m = .rstAssert ∨ SameSequencer s (m.effect s) ∨
    (GoesOn s ∧ m.effect s = microStep s.bus.phase s) ∨
    (s.bus.phase = .idle ∧ ∃ w, m.effect s = acceptCommand w s) := by
  obtain rfl | rfl | ⟨rfl | rfl, -⟩ | hhost := effect_cases m
  · exact .inl rfl
  · exact .inr (.inl rfl)
  · obtain he | hgo | ⟨-, hp, w, -, he⟩ := busTurn_sequencer_cases s
    · exact .inr (.inr (.inl (by rw [he]; exact .refl s)))
    · exact .inr (.inr (.inr (.inl hgo)))
    · exact .inr (.inr (.inr (.inr ⟨hp, w, he⟩)))
  · obtain he | hgo := addressTurn_sequencer_cases s
    · exact .inr (.inr (.inl (by rw [he]; exact .refl s)))
    · exact .inr (.inr (.inr (.inl hgo)))
  · exact .inr (.inr (.inl (hhost.sameSequencer s)))

/-! ## The lines of each phase (R144) -/

/-- A micro-step drives the lines that the next phase has. -/
theorem linesFor_drives {p : Params} {ph : Phase} {b : Bus} {l : Lines} (hp : ph ≠ .idle) (h : linesFor p ph b l) :
    linesFor p ph.succ b (ph.drives p b l) := by
  cases ph
  case idle => contradiction
  all_goals simp_all [linesFor, Phase.succ, Phase.drives, Lines.park]

theorem icFor_drives {p : Params} {ph : Phase} {b : Bus} {l : Lines} (h : icFor ph l) :
    icFor ph.succ (ph.drives p b l) := by
  cases ph
  case x0 => rfl
  case x1 | x2 => exact h
  all_goals trivial

/-- `linesFor` reads the captured operands of `bus` only. -/
theorem linesFor_congr {p : Params} {ph : Phase} {b b' : Bus} {l : Lines} (haddr : b'.addr = b.addr) (hdata : b'.data = b.data)
    (h : linesFor p ph b l) : linesFor p ph b' l := by
  cases ph <;> simpa [linesFor, haddr, hdata] using h

/-- The converse of `linesFor_selected`; and in a window WE is low (R144 items 1 and 2). -/
theorem linesFor_of_window {p : Params} {ph : Phase} {b : Bus} {l : Lines} (h : linesFor p ph b l)
    (hph : ph = .w6 ∨ ph = .w7 ∨ ph = .w15 ∨ ph = .w16) : l.cs = .asserted ∧ l.we = .l := by
  obtain rfl | rfl | rfl | rfl := hph
  all_goals
    obtain ⟨hwe, -, hcs, -⟩ := h
    exact ⟨hcs, hwe⟩

/-! ## The sequencer's invariant (R144, R152) -/

theorem BusInv.of_sameSequencer {s t : State} (hi : BusInv s) (h : SameSequencer s t) : BusInv t := by
  obtain ⟨hparams, hbus, hline, htick, hchip⟩ := h
  unfold BusInv windowFor latchFor elapsed at hi ⊢
  rwa [hparams, hbus, hline, htick, hchip]

theorem BusInv.tick_lt {s : State} (hi : BusInv s) : s.tick < 2 ^ s.params.tickW := by
  obtain ⟨htick, -⟩ := hi
  exact htick

theorem BusInv.t0_lt {s : State} (hi : BusInv s) : s.bus.t0 < 2 ^ s.params.tickW := by
  obtain ⟨-, ht0, -⟩ := hi
  exact ht0

/-- Outside the four window phases no window is open. -/
theorem BusInv.noWindow {s : State} (hi : BusInv s) (hcs : s.line.cs ≠ .asserted) : s.chip.window = none := by
  obtain ⟨-, -, hlines, -, hwindow, -⟩ := hi
  unfold windowFor at hwindow
  generalize s.bus.phase = ph at hlines hwindow
  cases ph
  case w4 | w5 | w13 | w14 => exact hwindow.1
  case w6 | w7 | w15 | w16 => exact absurd (linesFor_of_window hlines (by decide)).1 hcs
  all_goals exact hwindow

/-! ### A tick -/

theorem elapsed_tickSource_le {s : State} (htick : s.tick < 2 ^ s.params.tickW) (ht0 : s.bus.t0 < 2 ^ s.params.tickW) :
    elapsed (tickSource s) ≤ elapsed s + 1 := modDiff_tick_le _ _ _ htick ht0

/-- A good window grows older by a tick. -/
theorem Window.goodFor_tick {n m : Nat} {w : Option Window} (h : Window.goodFor n w) (hm : m ≤ n + 1) :
    Window.goodFor m (w.map (fun w => { w with ticks := w.ticks + 1 })) := by
  cases w with
  | none => exact h
  | some w =>
    obtain ⟨hsettled, hsteady, hticks⟩ := h
    exact ⟨hsettled, hsteady, by dsimp only; omega⟩

theorem windowFor_tickSource {s : State} (he : elapsed (tickSource s) ≤ elapsed s + 1) (h : windowFor s) :
    windowFor (tickSource s) := by
  unfold windowFor at h ⊢
  rw [tickSource_bus, tickSource_params, tickSource_chip, Chip.tick_window, Chip.tick_stable]
  generalize s.bus.phase = ph at h
  cases ph
  case w4 | w13 => exact ⟨by rw [h.1]; rfl, he.trans (Nat.succ_le_succ h.2)⟩
  case w5 | w14 => exact ⟨by rw [h.1]; rfl, Nat.le_succ_of_le h.2⟩
  case w6 | w15 => exact Window.goodFor_tick h he
  case w7 | w16 => exact Window.goodFor_tick h (Nat.le_succ _)
  all_goals
    rw [h]
    rfl

theorem tickSource_busInv {s : State} (hi : BusInv s) : BusInv (tickSource s) := by
  obtain ⟨htick, ht0, hlines, hic, hwindow, hlatch, hwf⟩ := hi
  exact ⟨Nat.mod_lt _ (by positivity), ht0, hlines, hic, windowFor_tickSource (elapsed_tickSource_le htick ht0) hwindow, hlatch,
    hwf⟩

/-! ### The assertion of `rst` -/

theorem Chip.cutByReset_window {x : Lines} (y : Lines) {c : Chip} (h : x.cs ≠ .asserted → c.window = none) :
    (c.cutByReset x y).window = none := by
  unfold Chip.cutByReset
  by_cases hcs : x.cs = .asserted <;> by_cases hb : x.sameBus y = true <;> simp [hcs, hb, h]

theorem blockReset_busInv {s : State} (hi : BusInv s) : BusInv (blockReset s) := by
  have hwindow := Chip.cutByReset_window (Lines.atReset s.params) hi.noWindow
  obtain ⟨-, -, -, -, -, -, hwf⟩ := hi
  exact ⟨Nat.mod_lt _ (by positivity), Nat.mod_lt _ (by positivity), ⟨rfl, rfl⟩, trivial, hwindow, trivial,
    Chip.cutByReset_wf _ _ _ hwf⟩

/-! ### The acceptance of a command -/

theorem acceptCommand_busInv {s : State} (hi : BusInv s) (hp : s.bus.phase = .idle) (w : CmdWord) :
    BusInv (acceptCommand w s) := by
  have hlines := hi.lines
  rw [hp] at hlines
  have hnone : s.chip.window = none := hi.noWindow (by simp [hlines.2])
  obtain ⟨htick, ht0, -, -, -, -, hwf⟩ := hi
  unfold acceptCommand
  split <;> exact ⟨htick, ht0, hlines, trivial, hnone, trivial, hwf⟩

/-! ### A micro-step -/

theorem Chip.observe_window_none {p : Params} {x y : Lines} {c : Chip} (hy : y.cs ≠ .asserted)
    (h : x.cs ≠ .asserted → c.window = none) : (c.observe p x y).window = none := by
  unfold Chip.observe
  by_cases hcs : x.cs = .asserted <;> by_cases hb : x.sameBus y = true <;> simp [hy, hcs, hb, h]

/-- To the open window `X0` and `X3` are like any other micro-step: a change of the lines. -/
theorem microStep_window (p : Phase) (s : State) :
    (microStep p s).chip.window = (s.chip.observe s.params s.line (microStep p s).line).window := by
  by_cases h0 : p = .x0
  · subst h0; rfl
  by_cases h3 : p = .x3
  · subst h3; rfl
  rw [microStep_chip h0 h3]

theorem microStep_reg_wf {s : State} (hwf : s.chip.reg.wf s.chip.regDraw = true) (p : Phase) :
    (microStep p s).chip.reg.wf (microStep p s).chip.regDraw = true := by
  by_cases h0 : p = .x0
  · subst h0; rfl
  by_cases h3 : p = .x3
  · subst h3; rfl
  rw [microStep_chip h0 h3]
  exact Chip.observe_wf _ _ _ _ hwf

theorem microStep_linesFor {s : State} (hi : BusInv s) (hgo : GoesOn s) :
    linesFor s.params s.bus.phase.succ s.bus (microStep s.bus.phase s).line := by
  rw [microStep_line]
  exact linesFor_drives hgo.busy hi.lines

/-- A micro-step that leaves chip-select not asserted leaves no window open. -/
theorem microStep_noWindow {s : State} (hi : BusInv s) (hcs : (microStep s.bus.phase s).line.cs ≠ .asserted) :
    (microStep s.bus.phase s).chip.window = none := by
  rw [microStep_window]
  exact Chip.observe_window_none hcs hi.noWindow

/-- On entry to a wait no tick has elapsed (R30). -/
theorem elapsed_microStep {s : State} (hgo : GoesOn s) (hw : (s.bus.phase.succ.wait? s.params).isSome = true) :
    elapsed (microStep s.bus.phase s) = 0 := by
  obtain ⟨-, hp, hover⟩ := hgo
  obtain ⟨hparams, -, htick, -⟩ := microStep_sameButBus hp s
  rw [elapsed, hparams, htick, microStep_bus hp hover, if_pos hw, modDiff_self]

/-- Chip-select becomes asserted on settled lines: a window opens that is good so far (R144 items 4 and 5). -/
theorem goodFor_openWindow {p : Params} {l : Lines} {c : Chip} (hcs : l.cs ≠ .asserted) (hstable : p.tSettle ≤ c.stable) :
    Window.goodFor 0 (c.observe p l { l with cs := .asserted }).window := by
  rw [Chip.observe_opens p l _ c (by simp [Lines.sameBus]) hcs rfl]
  exact ⟨decide_eq_true hstable, rfl, Nat.le_refl 0⟩

/-- The window after the micro-step of a wait that is over is the one before it. -/
theorem microStep_wait_chip {s : State} {n : Nat} (hn : s.bus.phase.wait? s.params = some n) :
    (microStep s.bus.phase s).chip = s.chip := by
  rw [microStep_wait hn, waitTicks_chip]

theorem Window.goodFor_mono {n m : Nat} {w : Option Window} (h : Window.goodFor n w) (hm : m ≤ n) : Window.goodFor m w := by
  cases w with
  | none => exact h
  | some w => exact ⟨h.1, h.2.1, hm.trans h.2.2⟩

theorem microStep_windowFor {s : State} (hi : BusInv s) (hgo : GoesOn s) : windowFor (microStep s.bus.phase s) := by
  have hnone := microStep_noWindow hi
  have hlines := microStep_linesFor hi hgo
  have henter := elapsed_microStep hgo
  have hchip := @microStep_wait_chip s
  obtain ⟨-, hp, hover⟩ := hgo
  obtain ⟨-, -, hold, -, hwindow, -⟩ := hi
  unfold windowFor at hwindow ⊢
  obtain ⟨hparams, -⟩ := microStep_sameButBus hp s
  rw [hparams, microStep_bus hp hover]
  unfold WaitOver at hover
  dsimp only
  generalize hph : s.bus.phase = ph at *
  cases ph
  case idle => contradiction
  case w3 | w12 => exact ⟨hnone (by simp [hlines.2.2]), by simp [henter rfl]⟩
  case w4 | w13 =>
    rw [Phase.succ, hchip rfl]
    exact ⟨hwindow.1, (hover _ rfl).trans hwindow.2⟩
  case w5 | w14 =>
    rw [Phase.succ, henter rfl]
    exact goodFor_openWindow (by simp [hold.2.2]) hwindow.2
  case w6 | w15 =>
    rw [Phase.succ, hchip rfl]
    exact Window.goodFor_mono hwindow (hover _ rfl)
  all_goals exact hnone fun hcs => by have := linesFor_selected hlines hcs; simp [Phase.succ] at this

/-- A window that is good so far and has had its dwell is a good cycle, WE being low (R152). -/
theorem goodCycle_of_goodFor {p : Params} {l : Lines} {w : Option Window} (h : Window.goodFor (dwellFor p l.a0) w)
    (hwe : l.we = .l) : ∃ v, w = some v ∧ goodCycle p v l = true := by
  cases w with
  | none => exact absurd h id
  | some v =>
    obtain ⟨hsettled, hsteady, hdwell⟩ := h
    exact ⟨v, rfl, (goodCycle_iff _ _ _).2 ⟨hsettled, hsteady, hwe, hdwell⟩⟩

/-- The window that `W7` ends is a good address window (R144 items 2, 4 and 5; R152). -/
theorem BusInv.goodAddressWindow {s : State} (hi : BusInv s) (hp : s.bus.phase = .w7) :
    s.line.a0 = .l ∧ s.line.cs = .asserted ∧ s.line.d = s.bus.addr ∧
      ∃ w, s.chip.window = some w ∧ goodCycle s.params w s.line = true := by
  obtain ⟨-, -, hlines, -, hwindow, -⟩ := hi
  simp only [linesFor, windowFor, hp] at hlines hwindow
  obtain ⟨hwe, ha0, hcs, hd⟩ := hlines
  exact ⟨ha0, hcs, hd, goodCycle_of_goodFor (by rwa [ha0]) hwe⟩

/-- The window that `W16` ends is a good data window, and the target holds the address (R144, R152, R71). -/
theorem BusInv.goodDataWindow {s : State} (hi : BusInv s) (hp : s.bus.phase = .w16) :
    s.line.a0 = .h ∧ s.line.cs = .asserted ∧ s.line.d = s.bus.data ∧
      (s.line.ic = .deasserted → s.chip.latch = s.bus.addr) ∧
      ∃ w, s.chip.window = some w ∧ goodCycle s.params w s.line = true := by
  obtain ⟨-, -, hlines, -, hwindow, hlatch, -⟩ := hi
  simp only [linesFor, windowFor, latchFor, hp] at hlines hwindow hlatch
  obtain ⟨hwe, ha0, hcs, hd⟩ := hlines
  exact ⟨ha0, hcs, hd, hlatch, goodCycle_of_goodFor (by rwa [ha0]) hwe⟩

theorem deselectAddress_latch {s : State} (hi : BusInv s) (hp : s.bus.phase = .w7) (hic : s.line.ic = .deasserted) :
    (deselectAddress s).chip.latch = s.bus.addr := by
  obtain ⟨ha0, hcs, hd, w, hw, hg⟩ := hi.goodAddressWindow hp
  rw [(deselectAddress_of_goodAddress hcs hic hw ha0 hg).1, hd]

/-- A micro-step that does not take chip-select away, nor touches the target's reset, keeps the latch and the registers. -/
theorem microStep_keeps_target {p : Phase} (h0 : p ≠ .x0) (h3 : p ≠ .x3) {s : State}
    (hcs : s.line.cs = .asserted → (p.drives s.params s.bus s.line).cs = .asserted) :
    (microStep p s).chip.latch = s.chip.latch ∧ SameMemory s (microStep p s) := by
  rw [← microStep_line] at hcs
  obtain ⟨hlatch, hreg, hdraw⟩ := Chip.observe_keeps s.params s.line (microStep p s).line s.chip hcs
  rw [← microStep_chip h0 h3] at hlatch hreg hdraw
  exact ⟨hlatch, .of_chip hreg hdraw⟩

theorem microStep_latchFor {s : State} (hi : BusInv s) (hgo : GoesOn s) : latchFor (microStep s.bus.phase s) := by
  have hset := deselectAddress_latch hi
  obtain ⟨-, hp, hover⟩ := hgo
  obtain ⟨-, -, -, -, -, hlatch, -⟩ := hi
  unfold latchFor at hlatch ⊢
  rw [microStep_bus hp hover, microStep_line]
  dsimp only
  generalize hph : s.bus.phase = ph at hlatch hset ⊢
  cases ph
  case w7 => exact hset rfl
  case w14 => exact fun hic => (microStep_keeps_target (by decide) (by decide) fun _ => rfl).1.trans (hlatch hic)
  case w8 | w9 | w10 | w11 | w12 | w13 | w15 =>
    exact fun hic => (microStep_keeps_target (by decide) (by decide) id).1.trans (hlatch hic)
  all_goals exact True.intro

theorem microStep_busInv {s : State} (hi : BusInv s) (hgo : GoesOn s) : BusInv (microStep s.bus.phase s) := by
  have hlines := microStep_linesFor hi hgo
  have hwindow := microStep_windowFor hi hgo
  have hlatch := microStep_latchFor hi hgo
  obtain ⟨-, hp, hover⟩ := hgo
  obtain ⟨htick, ht0, -, hic, -, -, hwf⟩ := hi
  obtain ⟨hparams, -, htick', -⟩ := microStep_sameButBus hp s
  refine ⟨by rwa [hparams, htick'], ?_, ?_, ?_, hwindow, hlatch, microStep_reg_wf hwf _⟩
  · rw [hparams, microStep_bus hp hover]
    dsimp only
    split
    · exact htick
    · exact ht0
  · rw [hparams, microStep_bus hp hover]
    exact linesFor_congr rfl rfl hlines
  · rw [microStep_bus hp hover, microStep_line]
    exact icFor_drives hic

theorem effect_busInv (m : Move) {s : State} (hi : BusInv s) : BusInv (m.effect s) := by
  obtain rfl | rfl | hsame | ⟨hgo, he⟩ | ⟨hp, w, he⟩ := effect_sequencer_cases m s
  · exact tickSource_busInv hi
  · exact (blockReset_busInv hi).of_sameSequencer ⟨rfl, rfl, rfl, rfl, rfl⟩
  · exact hi.of_sameSequencer hsame
  · rw [he]
    exact microStep_busInv hi hgo
  · rw [he]
    exact acceptCommand_busInv hi hp w

/-- Settles O13, by `effect_sequencer_cases`: a tick ages the open window, `rst` parks the lines, a micro-step drives the lines of
the next phase. -/
theorem everyStepKeepsTheBusInvariant : Obligations.EveryStepKeepsTheBusInvariant := by
  intro s t hi h
  obtain ⟨-, rfl⟩ | ⟨m, rest, -, rfl⟩ := step_effect_cases h
  · exact tickSource_busInv hi
  · exact effect_busInv m (s := { s with moves := rest }) (hi.of_sameSequencer ⟨rfl, rfl, rfl, rfl, rfl⟩)

/-! ## Commands (R120, R151) -/

theorem cmdReady_iff (s : State) : cmdReady s = true ↔ s.bus.phase = .idle := beq_iff_eq

theorem busy_iff (s : State) : busy s = true ↔ s.bus.phase ≠ .idle := bne_iff_ne

theorem runCommand_idle {s : State} (hp : s.bus.phase = .idle) (w : CmdWord) :
    runCommand w s = .next (acceptCommand w s) := if_pos ((cmdReady_iff s).2 hp)

theorem runCommand_busy {s : State} (hp : s.bus.phase ≠ .idle) (w : CmdWord) :
    runCommand w s = .refused .commandWhileBusy := if_neg (mt (cmdReady_iff s).1 hp)

theorem exec_write_idle {s : State} (hp : s.bus.phase = .idle) (a d : Byte) : exec (.write a d) s = .next
    { s with bus := { s.bus with phase := .w0, addr := a, data := d }, port := { s.port with cmd := none } } := by
  rw [← acceptCommand_write]
  exact runCommand_idle hp _

theorem exec_chipReset_idle {s : State} (hp : s.bus.phase = .idle) (x : BitVec 16) : exec (.chipReset x) s = .next
    { s with bus := { s.bus with phase := .x0 }, port := { s.port with cmd := none } } := by
  rw [← acceptCommand_chipReset x]
  exact runCommand_idle hp _

/-- Settles O30, by the state that the acceptance of each command answers. -/
theorem commandIsAcceptedInIdle : Obligations.CommandIsAcceptedInIdle := by
  intro s a d x
  refine ⟨cmdReady_iff s, busy_iff s, fun hp => ⟨⟨_, exec_write_idle hp a d, ?_⟩, ⟨_, exec_chipReset_idle hp x, ?_⟩⟩⟩
  · exact ⟨rfl, rfl, rfl, rfl, rfl, fun _ => rfl, rfl, rfl, rfl, rfl, rfl, rfl⟩
  · exact ⟨rfl, rfl, rfl, rfl, rfl, fun _ => rfl, rfl, rfl, rfl, rfl, rfl, rfl⟩

/-- Settles O32, by `microStep_idle`; outside `Idle` no command is ready to be taken. -/
theorem idlePhaseHasNoMicroStep : Obligations.IdlePhaseHasNoMicroStep := by
  intro s
  have hrow : exec .phaseIdle s = .next (microStep .idle s) := exec_phase .idle s
  rw [hrow, microStep_idle]
  refine ⟨fun hc => by rw [hc], fun w hc hp => ?_, fun hp => ?_⟩
  · rw [hc, exec_decodeCommand, runCommand_idle hp]
    exact congrArg Host.Outcome.next (if_pos ((cmdReady_iff s).2 hp))
  · have hbusy : cmdReady s ≠ true := mt (cmdReady_iff s).1 hp
    split
    · rfl
    · rw [if_neg hbusy]

/-- Outside `Idle` a micro-step reads no port, and so not a command that waits on it. -/
theorem microStep_port_blind {p : Phase} (hp : p ≠ .idle) (s : State) (q : Ports) :
    microStep p { s with port := q } = { microStep p s with port := q } := by
  cases p
  case idle => contradiction
  case w2 | w4 | w6 | w10 | w13 | w15 | x2 =>
    rw [microStep_wait rfl, microStep_wait rfl]
    unfold waitTicks elapsed
    dsimp only
    split <;> rfl
  all_goals rfl

theorem busTurn_command_blind {s : State} (hp : s.bus.phase ≠ .idle) :
    Move.effect .bus { s with port := { s.port with cmd := none } } =
      { Move.effect .bus s with port := { s.port with cmd := none } } := by
  cases hr : s.port.rst
  · rw [effect_bus_of_released hr, effect_bus_of_released (by exact hr)]
    exact microStep_port_blind hp s _
  · simp [Move.effect, hr]

/-- Outside `Idle` BUS's turn leaves the ports and the captured operands alone. -/
theorem busTurn_keeps_operands {s : State} (hp : s.bus.phase ≠ .idle) : (Move.effect .bus s).port = s.port ∧
    (Move.effect .bus s).bus.addr = s.bus.addr ∧ (Move.effect .bus s).bus.data = s.bus.data := by
  obtain he | ⟨⟨-, -, hover⟩, he⟩ | ⟨-, hidle, -⟩ := busTurn_sequencer_cases s
  · rw [he]
    exact ⟨rfl, rfl, rfl⟩
  · obtain ⟨-, -, -, hport, -⟩ := microStep_sameButBus hp s
    rw [he, microStep_bus hp hover]
    exact ⟨hport, rfl, rfl⟩
  · contradiction

/-! ## A presented command is held (R215, R275) -/

theorem doNextAct_presented {s : State} {w : CmdWord} (h : s.port.cmd = some w) : doNextAct s = s := by
  obtain he | ⟨_, _, hnone, -⟩ | ⟨_, _, hnone, -⟩ := doNextAct_cases s
  · exact he
  all_goals simp [h] at hnone

theorem nextAct_presented {s : State} {w : CmdWord} (h : s.port.cmd = some w) : nextAct s = s := by
  unfold nextAct
  split
  · rfl
  · exact doNextAct_presented h

theorem loopTurn_presented {s : State} {w : CmdWord} (h : s.port.cmd = some w) : loopTurn s = s := by
  have hact : loopAct s = .hold := by simp [loopAct, h]
  rw [loopTurn, hact]

theorem hostStart_presented {s : State} {w : CmdWord} (h : s.port.cmd = some w) : hostStart s = s := by
  obtain ⟨-, hnone, -⟩ | he := hostStart_cases s
  · simp [h] at hnone
  · exact he

theorem decTurn_cmd (s : State) : (Move.effect .dec s).port.cmd = s.port.cmd := by
  unfold Move.effect decTurnFrom
  dsimp only
  split
  · rfl
  · split
    · rfl
    · obtain ⟨-, -, -, -, hcmd, -⟩ := takeByteFrom_sameButDec s.dec.state _ s
      exact hcmd

theorem handByte_cmd (s : State) : (handByte s).port.cmd = s.port.cmd := by
  obtain he | ⟨_, _, -, -, -, -, he⟩ := handByte_cases s <;> rw [he]

theorem acceptCommand_cmd (w : CmdWord) (s : State) : (acceptCommand w s).port.cmd = none := by
  unfold acceptCommand
  split <;> rfl

theorem acceptCommand_busy (w : CmdWord) (s : State) : (acceptCommand w s).bus.phase ≠ .idle := by
  rw [acceptCommand_phase]
  split <;> decide

/-- All that a move can do to a presented command: hold it, accept it in `Idle`, or drop it with the release of `rst`. -/
theorem effect_presented_cases {s : State} {w : CmdWord} (h : s.port.cmd = some w) (m : Move) :
    (m.effect s).port.cmd = some w ∨
    (m = .bus ∧ s.bus.phase = .idle ∧ s.port.rst = false ∧ (m.effect s).port.cmd = none ∧ (m.effect s).bus.phase ≠ .idle) ∨
    (m = .rstRelease ∧ s.port.rst = true) := by
  cases m with
  | tick | request | receive | setMode | setKeys | rstAssert => exact .inl h
  | dec => exact .inl ((decTurn_cmd s).trans h)
  | bus =>
    obtain he | ⟨⟨-, hp, -⟩, -⟩ | ⟨hr, hp, w, -, he⟩ := busTurn_sequencer_cases s
    · exact .inl (by rw [he, h])
    · exact .inl (by rw [(busTurn_keeps_operands hp).1, h])
    · exact .inr (.inl ⟨rfl, hp, hr, by rw [he, acceptCommand_cmd], by rw [he]; exact acceptCommand_busy w s⟩)
  | address =>
    obtain he | ⟨⟨-, hp, -⟩, he⟩ := addressTurn_sequencer_cases s
    · exact .inl (by rw [he, h])
    · obtain ⟨-, -, -, hport, -⟩ := microStep_sameButBus hp s
      exact .inl (by rw [he, hport, h])
  | takeEvent => exact .inl ((congrArg Ports.cmd (takePending_port s)).trans h)
  | handByte => exact .inl ((handByte_cmd s).trans h)
  | issue => exact .inl ((congrArg (·.port.cmd) (nextAct_presented h)).trans h)
  | loop => exact .inl ((congrArg (·.port.cmd) (loopTurn_presented h)).trans h)
  | hostInit => exact .inl ((congrArg (·.port.cmd) (hostStart_presented h)).trans h)
  | rstRelease =>
    cases hr : s.port.rst
    · exact .inl (by simp [Move.effect, environment, rstRelease, hr, h])
    · exact .inr (.inr ⟨rfl, rfl⟩)

/-- Settles O31, by `busTurn_command_blind` for the command that is not stored and `effect_presented_cases` for the one that is
held. -/
theorem commandWhileBusyIsNeitherAcceptedNorStored : Obligations.CommandWhileBusyIsNeitherAcceptedNorStored := by
  constructor
  · intro s a d x hp
    refine ⟨beq_false_of_ne hp, runCommand_busy hp _, runCommand_busy hp _, fun rest w hm hc => ⟨_, step_effect hm, ?_⟩⟩
    obtain ⟨hport, haddr, hdata⟩ := busTurn_keeps_operands (s := { s with moves := rest }) hp
    refine ⟨by rw [hport]; exact hc, haddr, hdata, ?_⟩
    rw [hport, step_effect (s := { s with port := { s.port with cmd := none } }) hm]
    exact congrArg Host.Outcome.next (busTurn_command_blind (s := { s with moves := rest }) hp)
  · intro s t w h hc
    obtain ⟨-, rfl⟩ | ⟨m, rest, hm, rfl⟩ := step_effect_cases h
    · exact .inl hc
    · simpa [hm] using effect_presented_cases (s := { s with moves := rest }) hc m

/-! ## The micro-steps (R122 to R140, R146 to R149) -/

theorem microStep_sameButLines {p : Phase} (hidle : p ≠ .idle) (h0 : p ≠ .x0) (h3 : p ≠ .x3) {s : State}
    (hcs : s.line.cs = .asserted → (p.drives s.params s.bus s.line).cs = .asserted) : SameButLines s (microStep p s) :=
  ⟨microStep_sameButBus hidle s, microStep_keeps_target h0 h3 hcs⟩

/-- Settles O33: none of these rows moves chip-select. -/
theorem writeEnableAddressSelectAndDataMicroSteps : Obligations.WriteEnableAddressSelectAndDataMicroSteps := by
  intro s
  refine ⟨⟨_, exec_phase .w0 s, rfl, rfl, ?_⟩, ⟨_, exec_phase .w9 s, rfl, rfl, ?_⟩, ⟨_, exec_phase .w12 s, rfl, rfl, ?_⟩,
    ⟨_, exec_phase .w17 s, rfl, rfl, ?_⟩, ⟨_, exec_phase .w1 s, rfl, rfl, ?_⟩, ⟨_, exec_phase .w3 s, rfl, rfl, ?_⟩,
    ⟨_, exec_phase .w8 s, rfl, rfl, ?_⟩, ⟨_, exec_phase .w11 s, rfl, rfl, ?_⟩⟩
  all_goals exact microStep_sameButLines (by decide) (by decide) (by decide) id

/-- Chip-select becomes asserted: a window opens (R152). -/
theorem window_of_assert {s : State} (hcs : s.line.cs ≠ .asserted) :
    ∃ w, (s.chip.observe s.params s.line { s.line with cs := .asserted }).window = some w ∧ w.ticks = 0 := by
  rw [Chip.observe_opens _ _ _ _ (by simp [Lines.sameBus]) hcs rfl]
  exact ⟨_, rfl, rfl⟩

/-- Settles O34, by what the target sees of a change of chip-select. -/
theorem chipSelectMicroSteps : Obligations.ChipSelectMicroSteps := by
  intro s
  refine ⟨⟨_, exec_phase .w5 s, rfl, rfl, window_of_assert, ?_⟩, ⟨_, exec_phase .w14 s, rfl, rfl, window_of_assert, ?_⟩,
    ⟨_, exec_phase .w18 s, rfl, rfl, rfl, rfl, microStep_sameButBus (by decide) s, fun hcs => ?_⟩⟩
  · exact microStep_sameButLines (by decide) (by decide) (by decide) fun _ => rfl
  · exact microStep_sameButLines (by decide) (by decide) (by decide) fun _ => rfl
  · exact microStep_sameButLines (by decide) (by decide) (by decide) (absurd · hcs)

/-- Settles O39: the rows drive their lines, and `X1`, outside a window, takes no chip-select away. -/
theorem chipResetMicroSteps : Obligations.ChipResetMicroSteps := by
  intro s
  refine ⟨⟨_, exec_phase .x0 s, rfl, rfl, microStep_sameButBus (by decide) s⟩,
    ⟨_, exec_phase .x1 s, rfl, rfl, microStep_sameButBus (by decide) s, fun hcs => ?_⟩,
    ⟨_, exec_phase .x3 s, rfl, rfl, rfl, microStep_sameButBus (by decide) s⟩⟩
  exact microStep_sameButLines (by decide) (by decide) (by decide) (absurd · hcs)

/-! ## The ends of the two windows (R129, R138, R152) -/

/-- Settles O35: in the protocol the window is a good address window. -/
theorem addressWindowSetsTheLatch : Obligations.AddressWindowSetsTheLatch := fun s hi hp hic =>
  ⟨_, exec_phase .w7 s, rfl, rfl, deselectAddress_latch hi hp hic, deselectAddress_sameMemory hi hp,
    deselectAddress_sameButBus s⟩

/-- The target sees the same at the ends of the two windows, so what `deselectAddress` does to it `W16` does too. -/
theorem microStep_w16_writes {s : State} (hi : BusInv s) (hp : s.bus.phase = .w16) (hic : s.line.ic = .deasserted) :
    (∀ a : Byte, chipRead (microStep .w16 s) a = if a = s.bus.addr then s.bus.data else chipRead s a) ∧
    (microStep .w16 s).chip.latch = s.chip.latch := by
  obtain ⟨ha0, hcs, hd, hlatch, w, hw, hg⟩ := hi.goodDataWindow hp
  obtain ⟨hkept, hread⟩ := deselectAddress_of_goodData hcs hic hw ha0 hg
  rw [hlatch hic, hd] at hread
  exact ⟨hread, hkept⟩

/-- Settles O36: in the protocol the window is a good data window. -/
theorem dataWindowWritesTheAddressedRegister : Obligations.DataWindowWritesTheAddressedRegister := by
  intro s hi hp hic
  obtain ⟨hread, hkept⟩ := microStep_w16_writes hi hp hic
  exact ⟨_, exec_phase .w16 s, rfl, rfl, hread, hkept, microStep_sameButBus (by decide) s⟩

/-- Settles O37: the end of a window is nothing to a target that is held in reset. -/
theorem windowsHaveNoEffectOnATargetInReset : Obligations.WindowsHaveNoEffectOnATargetInReset := by
  intro s hic
  have hsame := deselectAddress_sameButLines (.inl hic)
  exact ⟨⟨_, exec_phase .w7 s, rfl, rfl, hsame⟩,
    ⟨_, exec_phase .w16 s, rfl, rfl, microStep_sameButBus (by decide) s, hsame.2⟩⟩

/-! ## What the lines do in a step (R144) -/

/-- The lines after a move that does not assert `rst`: as before, or driven by the micro-step of the phase. -/
theorem effect_line_cases {m : Move} (hm : m ≠ .rstAssert) (s : State) :
    (m.effect s).line = s.line ∨ (m.effect s).line = s.bus.phase.drives s.params s.bus s.line := by
  obtain rfl | rfl | ⟨-, -, hline, -⟩ | ⟨-, he⟩ | ⟨-, w, he⟩ := effect_sequencer_cases m s
  · exact .inl rfl
  · contradiction
  · exact .inl hline
  · exact .inr (by rw [he, microStep_line])
  · exact .inl (by rw [he, acceptCommand_line])

/-- In the phases of a window the micro-step leaves WE, A0 and D alone (R144 item 2). -/
theorem drives_in_window {ph : Phase} (h : ph = .w6 ∨ ph = .w7 ∨ ph = .w15 ∨ ph = .w16) (p : Params) (b : Bus) (l : Lines) :
    (ph.drives p b l).we = l.we ∧ (ph.drives p b l).a0 = l.a0 ∧ (ph.drives p b l).d = l.d := by
  obtain rfl | rfl | rfl | rfl := h <;> exact ⟨rfl, rfl, rfl⟩

/-- Only three micro-steps drive D (R144 item 3). -/
theorem drives_d {ph : Phase} {p : Params} {b : Bus} {l : Lines} (h : (ph.drives p b l).d ≠ l.d) :
    ph = .w3 ∨ ph = .w11 ∨ ph = .x1 := by
  cases ph
  case w3 | w11 | x1 => decide
  all_goals exact absurd rfl h

theorem linesFor_selected_iff {p : Params} {ph : Phase} {b : Bus} {l : Lines} (h : linesFor p ph b l) :
    l.cs = .asserted ↔ ph = .w6 ∨ ph = .w7 ∨ ph = .w15 ∨ ph = .w16 :=
  ⟨linesFor_selected h, fun hph => (linesFor_of_window h hph).1⟩

theorem step_line_cases {s t : State} (hn : s.notResetting) (h : step s = .next t) :
    t.line = s.line ∨ t.line = s.bus.phase.drives s.params s.bus s.line := by
  obtain ⟨-, rfl⟩ | ⟨m, rest, hm, rfl⟩ := step_effect_cases h
  · exact .inl rfl
  · exact effect_line_cases (fun hr => hn (by rw [hm, hr]; rfl)) { s with moves := rest }

/-- Settles O41, by the lines of each phase and the lines that each micro-step drives. -/
theorem chipSelectWindowsKeepTheirLines : Obligations.ChipSelectWindowsKeepTheirLines := by
  intro s t hi hn h
  have hsel := linesFor_selected_iff hi.lines
  refine ⟨hsel, fun hcs => ⟨(linesFor_of_window hi.lines (hsel.1 hcs)).2, ?_⟩, fun hd => ?_⟩
  · obtain he | he := step_line_cases hn h <;> rw [he]
    · exact ⟨rfl, rfl, rfl⟩
    · exact drives_in_window (hsel.1 hcs) _ _ _
  · obtain he | he := step_line_cases hn h <;> rw [he] at hd
    · contradiction
    · have hph := drives_d hd
      refine ⟨fun hcs => ?_, hph⟩
      obtain hw | hw | hw | hw := hsel.1 hcs <;> simp [hw] at hph

/-! ## The ticks owed (R145) -/

/-- A tick pays at most one of the ticks owed. -/
theorem ticksOwed_tick {p : Params} {e e' : Nat} (h : e' ≤ e + 1) (ph : Phase) :
    ticksOwed p e ph ≤ ticksOwed p e' ph + 1 := by
  cases ph <;> simp only [ticksOwed] <;> omega

/-- A micro-step pays none: a wait that is over owes nothing, and the next one starts in full. -/
theorem ticksOwed_succ {p : Params} {e e' : Nat} {ph : Phase} (hover : ∀ n, ph.wait? p = some n → n ≤ e)
    (henter : (ph.succ.wait? p).isSome = true → e' = 0) : ticksOwed p e ph ≤ ticksOwed p e' ph.succ := by
  cases ph
  case w2 | w4 | w6 | w10 | w13 | w15 | x2 =>
    have := hover _ rfl
    simp only [ticksOwed, Phase.succ]
    omega
  case w1 | w3 | w5 | w9 | w12 | w14 | x1 =>
    obtain rfl := henter rfl
    simp only [ticksOwed, Phase.succ]
    omega
  all_goals exact Nat.le_refl _

theorem SameSequencer.owed {s t : State} (h : SameSequencer s t) : t.owed = s.owed := by
  obtain ⟨hparams, hbus, -, htick, -⟩ := h
  simp only [State.owed, elapsed, hparams, hbus, htick]

theorem owed_tickSource {s : State} (htick : s.tick < 2 ^ s.params.tickW) (ht0 : s.bus.t0 < 2 ^ s.params.tickW) :
    s.owed ≤ (tickSource s).owed + 1 := ticksOwed_tick (elapsed_tickSource_le htick ht0) _

theorem owed_microStep {s : State} (hgo : GoesOn s) : s.owed ≤ (microStep s.bus.phase s).owed := by
  have henter := elapsed_microStep hgo
  obtain ⟨-, hp, hover⟩ := hgo
  obtain ⟨hparams, -⟩ := microStep_sameButBus hp s
  rw [State.owed, State.owed, hparams, microStep_bus hp hover]
  exact ticksOwed_succ hover henter

theorem effect_owed {m : Move} (hr : m ≠ .rstAssert) (ht : m ≠ .tick) (s : State) : s.owed ≤ (m.effect s).owed := by
  obtain rfl | rfl | hsame | ⟨hgo, he⟩ | ⟨hp, w, he⟩ := effect_sequencer_cases m s
  · contradiction
  · contradiction
  · rw [hsame.owed]
  · rw [he]
    exact owed_microStep hgo
  · rw [State.owed, hp]
    exact Nat.zero_le _

/-- Settles O43, by `ticksOwed_tick` and `ticksOwed_succ`. -/
theorem noStepPaysMoreThanOneTick : Obligations.NoStepPaysMoreThanOneTick := by
  intro s t htick ht0 hn h
  obtain ⟨hm, rfl⟩ | ⟨m, rest, hm, rfl⟩ := step_effect_cases h
  · simpa [State.tickNext, hm] using owed_tickSource htick ht0
  · by_cases ht : m = .tick
    · subst ht
      have hpay : s.owed ≤ (Move.effect .tick { s with moves := rest }).owed + 1 :=
        owed_tickSource (s := { s with moves := rest }) htick ht0
      simpa [State.tickNext, hm] using hpay
    · exact (effect_owed (fun hr => hn (by rw [hm, hr]; rfl)) ht { s with moves := rest }).trans (Nat.le_add_right _ _)

/-! ## Ticks for a time (R142) -/

/-- Settles O60, by the division with remainder of `d + tTick - 1`. -/
theorem ticksForMeetsTheArithmeticOfR142 : Obligations.TicksForMeetsTheArithmeticOfR142 := by
  intro d tTick h
  have hdiv := Nat.div_add_mod (d + tTick - 1) tTick
  have hmod := Nat.mod_lt (d + tTick - 1) h
  rw [Nat.mul_comm] at hdiv
  unfold ticksFor
  refine ⟨by rw [Nat.add_sub_cancel]; omega, fun hd => ?_⟩
  rw [show ∀ q, q + 1 - 2 = q - 1 by omega, Nat.sub_mul]
  omega

/-! ## The modular tick difference (R141) -/

theorem modDiff_add (w a n : Nat) {b : Nat} (hb : b < 2 ^ w) :
    modDiff w ((a + n) % 2 ^ w) b = (modDiff w a b + n) % 2 ^ w := by
  unfold modDiff
  rw [Nat.add_sub_assoc hb.le, Nat.add_sub_assoc hb.le, Nat.mod_add_mod, Nat.mod_add_mod, Nat.add_right_comm]

/-- The modular difference of R141 as the remainder of the difference of the counts. -/
theorem modDiff_cast (w a : Nat) {b : Nat} (hb : b < 2 ^ w) : (modDiff w a b : Int) = ((a : Int) - b) % 2 ^ w := by
  have hsum : ((a + 2 ^ w - b : Nat) : Int) = (a : Int) - b + 2 ^ w := by
    rw [Nat.cast_sub (hb.le.trans (Nat.le_add_left _ _))]
    push_cast
    ring
  rw [modDiff, Int.natCast_mod, hsum]
  push_cast
  exact Int.add_emod_right _ _

/-- Ticks that pass while `bus` stays add to the elapsed count, up to a wrap. -/
theorem elapsed_of_ticks {s t : State} {n : Nat} (ht0 : s.bus.t0 < 2 ^ s.params.tickW) (hparams : t.params = s.params)
    (hbus : t.bus = s.bus) (htick : t.tick = (s.tick + n) % 2 ^ s.params.tickW) :
    elapsed t = (elapsed s + n) % 2 ^ s.params.tickW := by
  rw [elapsed, hparams, hbus, htick, modDiff_add _ _ _ ht0]
  rfl

/-! ## A wait's turn (R124, R126, R128, R132, R135, R137, R148) -/

theorem waitTicks_over {n : Nat} {s : State} (h : n ≤ elapsed s) (p : Phase) :
    waitTicks n p s = { s with bus := { s.bus with phase := p } } := if_pos h

theorem waitTicks_holds {n : Nat} {s : State} (h : elapsed s < n) (p : Phase) : waitTicks n p s = s :=
  if_neg (Nat.not_le.2 h)

theorem waitTicks_bus (n : Nat) (p : Phase) (s : State) :
    (waitTicks n p s).bus = { s.bus with phase := if n ≤ elapsed s then p else s.bus.phase } := by
  unfold waitTicks
  split <;> rfl

/-- The wait row `c` of a table of rows, parameters and next phases is `Wait` of that parameter. -/
theorem exec_waitRow {s : State} {c : Instr × Nat × Phase} (h : c ∈ [(Instr.w2, s.params.tSettle, Phase.w3),
      (.w4, s.params.tSettle, .w5), (.w6, s.params.tAddrLatch, .w7), (.w10, s.params.tSettle, .w11),
      (.w13, s.params.tSettle, .w14), (.w15, s.params.tDataLatch, .w16), (.x2, s.params.tResetPark, .x3)]) :
    exec c.1 s = .next (waitTicks c.2.1 c.2.2 s) := by
  simp only [List.mem_cons, List.not_mem_nil, or_false] at h
  obtain rfl | rfl | rfl | rfl | rfl | rfl | rfl := h <;> rfl

/-! ## Runs -/

theorem run_succ_of_step {M : Host.Core} {s t : M.State} (h : M.step s = .next t) (n : Nat) :
    M.run (n + 1) s = M.run n t := by
  rw [Host.Core.run, h]

theorem run_of_step {s t : State} (h : step s = .next t) (n : Nat) :
    (core.run (n + 1) s : Host.Outcome State Fault Refusal) = core.run n t :=
  run_succ_of_step (M := core) h n

theorem run_add {n : Nat} {s t : State} (h : (core.run n s : Host.Outcome State Fault Refusal) = .next t) (m : Nat) :
    (core.run (n + m) s : Host.Outcome State Fault Refusal) = core.run m t := by
  induction n generalizing s with
  | zero =>
    obtain rfl := Host.Outcome.next.inj h
    rw [Nat.zero_add]
  | succ n ih =>
    obtain ⟨u, hu, -⟩ := everyStepAnswersANextState s
    rw [run_of_step hu] at h
    rw [Nat.add_right_comm, run_of_step hu, ih h]

theorem HostSide.moves {f : State → State} (h : HostSide f) (s : State) : (f s).moves = s.moves := by
  have hs : f s = _ := h s s.chip
  rw [hs]

theorem BusSide.moves {f : State → State} (h : BusSide f) (s : State) : (f s).moves = s.moves := by
  obtain ⟨c', hs⟩ : ∃ c', f s = _ := h s s.chip
  rw [hs]

theorem effect_moves (m : Move) (s : State) : (m.effect s).moves = s.moves := by
  obtain rfl | rfl | ⟨-, hbus⟩ | hhost := effect_cases m
  · rfl
  · rfl
  · exact hbus.moves s
  · exact hhost.moves s

/-! ### Moves of the other agents during a wait -/

theorem addressTurn_outside {s : State} (h : s.bus.phase ≠ .w7) : Move.effect .address s = s :=
  if_neg (mt fetch_address_phase h)

/-- Outside `W7` a move that is neither BUS's turn nor the assertion of `rst` leaves `bus` alone, and only a tick counts. -/
theorem effect_of_otherAgent {m : Move} (hb : m ≠ .bus) (hr : m ≠ .rstAssert) {s : State} (h7 : s.bus.phase ≠ .w7)
    (htick : s.tick < 2 ^ s.params.tickW) : (m.effect s).params = s.params ∧ (m.effect s).bus = s.bus ∧
      (m.effect s).tick = (s.tick + [m].count .tick) % 2 ^ s.params.tickW := by
  by_cases hm : m = .tick
  · subst hm
    exact ⟨rfl, rfl, rfl⟩
  have hcount : (s.tick + [m].count .tick) % 2 ^ s.params.tickW = s.tick := by
    rw [List.count_singleton, if_neg (by simpa using hm), Nat.add_zero, Nat.mod_eq_of_lt htick]
  rw [hcount]
  obtain rfl | rfl | ⟨rfl | rfl, -⟩ | hhost := effect_cases m
  · contradiction
  · contradiction
  · contradiction
  · rw [addressTurn_outside h7]
    exact ⟨rfl, rfl, rfl⟩
  · obtain ⟨hparams, hbus, -, htick⟩ := hhost.frame s
    exact ⟨hparams, hbus, htick⟩

theorem run_otherAgents {others rest : List Move} (hothers : ∀ m ∈ others, m ≠ .bus ∧ m ≠ .rstAssert) {s : State}
    (h7 : s.bus.phase ≠ .w7) (htick : s.tick < 2 ^ s.params.tickW) (hr : s.port.rst = false)
    (hm : s.moves = others ++ rest) : ∃ t : State,
      (core.run others.length s : Host.Outcome State Fault Refusal) = .next t ∧ t.moves = rest ∧ t.params = s.params ∧
      t.bus = s.bus ∧ t.port.rst = false ∧ t.tick = (s.tick + others.count .tick) % 2 ^ s.params.tickW := by
  induction others generalizing s with
  | nil => exact ⟨s, rfl, hm, rfl, rfl, hr, (Nat.mod_eq_of_lt htick).symm⟩
  | cons m others ih =>
    obtain ⟨⟨hb, hrst⟩, hothers⟩ := List.forall_mem_cons.1 hothers
    obtain ⟨hparams, hbus, htick'⟩ := effect_of_otherAgent hb hrst (s := { s with moves := others ++ rest }) h7 htick
    have hrun := run_of_step (step_effect hm) others.length
    have hr' := (effect_noInput hrst { s with moves := others ++ rest }).2 hr
    have hm' := effect_moves m { s with moves := others ++ rest }
    generalize m.effect { s with moves := others ++ rest } = u at *
    obtain ⟨t, ht, hmoves, htparams, htbus, htr, htt⟩ := ih hothers (s := u) (by rwa [hbus])
      (by rw [htick', hparams]; exact Nat.mod_lt _ (by positivity)) hr' hm'
    refine ⟨t, by rw [List.length_cons, hrun, ht], hmoves, htparams.trans hparams, htbus.trans hbus, htr, ?_⟩
    have hcount : (m :: others).count .tick = [m].count .tick + others.count .tick := List.count_append (l₁ := [m])
    rw [htt, htick', hparams, Nat.mod_add_mod, hcount, ← Nat.add_assoc]

theorem ticksBeforeBus_append {others : List Move} (h : ∀ m ∈ others, m ≠ .bus ∧ m ≠ .rstAssert) (rest : List Move) :
    ticksBeforeBus (others ++ .bus :: rest) = others.count .tick := by
  induction others with
  | nil => rfl
  | cons m others ih =>
    obtain ⟨⟨hb, -⟩, h⟩ := List.forall_mem_cons.1 h
    rw [List.cons_append, ticksBeforeBus, if_neg hb, ih h, List.count_cons]
    simp only [beq_iff_eq]

theorem wait_ne_w7 {ph : Phase} {p : Params} {n : Nat} (h : ph.wait? p = some n) : ph ≠ .w7 := by
  rintro rfl
  contradiction

/-- Settles O38: a turn of a wait by `exec_waitRow`, and the run up to the turn by `run_otherAgents`. -/
theorem waitEndsExactlyWhenItsTicksHaveElapsed : Obligations.WaitEndsExactlyWhenItsTicksHaveElapsed := by
  constructor
  · intro s _ ht0 e he c hc
    rw [← modDiff_cast _ _ ht0] at he
    rw [exec_waitRow hc, he]
    exact ⟨fun h => congrArg _ (waitTicks_over (Int.ofNat_le.1 h) _), fun h => congrArg _ (waitTicks_holds (Int.ofNat_lt.1 h) _)⟩
  · rintro s others rest n htick ht0 hn hr hm hothers ⟨-, hpolled⟩
    obtain ⟨t, hrun, hmoves, hparams, hbus, htr, htt⟩ := run_otherAgents hothers (wait_ne_w7 hn) htick hr hm
    rw [hm, ticksBeforeBus_append hothers] at hpolled
    have he := elapsed_of_ticks ht0 hparams hbus htt
    rw [Nat.mod_eq_of_lt hpolled] at he
    refine ⟨_, (run_add hrun 1).trans (run_of_step (step_effect hmoves) 0), effect_moves _ _, ?_⟩
    rw [effect_bus_of_released (by exact htr), microStep_wait (n := n) (by rw [hbus, hparams, hn]), waitTicks_bus, ← he, ← hbus]
    rfl

/-! ## The run of a command and its observation (R121, R146, R282) -/

/-- `n` steps lead from `s` to `t`; on the way the lines perform the writes `ws`, and DEC emits nothing. -/
def RunsTo (n : Nat) (ws : List (Byte × Byte)) (s t : State) : Prop :=
  (core.run n s : Host.Outcome State Fault Refusal) = .next t ∧
  ∀ k, (observation (k + n) s).writes = ws ++ (observation k t).writes ∧
    (observation (k + n) s).events = (observation k t).events

theorem RunsTo.refl (s : State) : RunsTo 0 [] s s := ⟨rfl, fun _ => ⟨rfl, rfl⟩⟩

theorem RunsTo.trans {n m : Nat} {ws ws' : List (Byte × Byte)} {s t u : State} (h : RunsTo n ws s t)
    (h' : RunsTo m ws' t u) : RunsTo (n + m) (ws ++ ws') s u := by
  obtain ⟨hrun, hobs⟩ := h
  obtain ⟨hrun', hobs'⟩ := h'
  refine ⟨(run_add hrun m).trans hrun', fun k => ?_⟩
  rw [Nat.add_comm n, ← Nat.add_assoc, (hobs (k + m)).1, (hobs (k + m)).2, (hobs' k).1, (hobs' k).2, List.append_assoc]
  exact ⟨rfl, rfl⟩

theorem RunsTo.of_step {s t : State} (h : step s = .next t) (hdec : t.dec = s.dec) : RunsTo 1 (performed s t) s t := by
  refine ⟨(run_of_step h 0).trans rfl, fun k => ?_⟩
  have hemit : emitted s t = [] := by simp [emitted, hdec]
  simp only [observation, h, hemit, List.nil_append, and_self]

/-- The lines perform a write only where chip-select goes away in data mode. -/
theorem performed_eq_nil {s t : State} (h : s.line.cs = .asserted → s.line.a0 = .h → t.line.cs = .asserted) :
    performed s t = [] := by
  unfold performed
  split
  · rfl
  · refine if_neg ?_
    rintro ⟨hcs, hcs', -, -, ha0, -⟩
    exact hcs' (h hcs ha0)

theorem RunsTo.of_quiet_step {s t : State} (h : step s = .next t) (hdec : t.dec = s.dec)
    (hquiet : s.line.cs = .asserted → s.line.a0 = .h → t.line.cs = .asserted) : RunsTo 1 [] s t := by
  have hrun := RunsTo.of_step h hdec
  rwa [performed_eq_nil hquiet] at hrun

/-! ### Ticks -/

/-- From `s` to `t` a command goes on: `k` ticks pass, and nothing but the sequencer's progress, the lines and the target differs. -/
structure Carried (k : Nat) (s t : State) : Prop where
  params : t.params = s.params
  dec : t.dec = s.dec
  port : t.port = s.port
  env : t.env = s.env
  addr : t.bus.addr = s.bus.addr
  data : t.bus.data = s.bus.data
  tick : t.tick = (s.tick + k) % 2 ^ s.params.tickW

theorem Carried.refl {s : State} (hi : BusInv s) : Carried 0 s s :=
  ⟨rfl, rfl, rfl, rfl, rfl, rfl, (Nat.mod_eq_of_lt hi.tick_lt).symm⟩

theorem Carried.trans {k k' : Nat} {s t u : State} (h : Carried k s t) (h' : Carried k' t u) : Carried (k + k') s u where
  params := h'.params.trans h.params
  dec := h'.dec.trans h.dec
  port := h'.port.trans h.port
  env := h'.env.trans h.env
  addr := h'.addr.trans h.addr
  data := h'.data.trans h.data
  tick := by rw [h'.tick, h.tick, h.params, Nat.mod_add_mod, Nat.add_assoc]

/-- From `s` to `t` only the tick source has stepped, `n` times. -/
def Waited (n : Nat) (s t : State) : Prop :=
  Carried n s t ∧ t.bus = s.bus ∧ t.line = s.line ∧ SameMemory s t ∧ BusInv t

theorem runsTo_tick {s : State} {rest : List Move} (hm : s.moves = .tick :: rest) :
    RunsTo 1 [] s (tickSource { s with moves := rest }) := .of_quiet_step (step_effect hm) rfl fun hcs _ => hcs

theorem runsTo_ticks (n : Nat) {s : State} {rest : List Move} (hi : BusInv s)
    (hm : s.moves = List.replicate n .tick ++ rest) : ∃ t, RunsTo n [] s t ∧ Waited n s t ∧ t.moves = rest := by
  induction n generalizing s with
  | zero => exact ⟨s, .refl s, ⟨.refl hi, rfl, rfl, fun _ => rfl, hi⟩, hm⟩
  | succ n ih =>
    have hone : Carried 1 s (tickSource { s with moves := List.replicate n .tick ++ rest }) :=
      ⟨rfl, rfl, rfl, rfl, rfl, rfl, rfl⟩
    obtain ⟨t, hrun, ⟨hcarried, hbus, hline, hmem, hit⟩, hmoves⟩ :=
      ih (s := tickSource { s with moves := List.replicate n .tick ++ rest }) (tickSource_busInv hi) rfl
    have hrun' := (runsTo_tick hm).trans hrun
    have hcarried' := hone.trans hcarried
    rw [Nat.add_comm] at hrun' hcarried'
    exact ⟨t, hrun', ⟨hcarried', hbus, hline, hmem, hit⟩, hmoves⟩

/-! ### A phase from its entry to its end -/

/-- The moves of a phase on the earliest schedule: the ticks of its wait, if it is one, and BUS's turn. -/
def Phase.turn (p : Params) (ph : Phase) : List Move := ticksThenBus ((ph.wait? p).getD 0)

/-- A phase has just been entered, `rst` released, in the sequencer's invariant and with waits that the tick counter can count. -/
structure Ready (s : State) : Prop where
  busInv : BusInv s
  fresh : (s.bus.phase.wait? s.params).isSome = true → elapsed s = 0
  released : s.port.rst = false
  fits : ∀ (ph : Phase) (n : Nat), ph.wait? s.params = some n → n < 2 ^ s.params.tickW

theorem wait_lt_of_admissible {p : Params} (h : p.admissible) {ph : Phase} {n : Nat} (hn : ph.wait? p = some n) :
    n < 2 ^ p.tickW := by
  obtain ⟨-, hsettle, haddr, hdata, hpark, -⟩ := h
  cases ph
  case w2 | w4 | w10 | w13 => exact Option.some.inj hn ▸ hsettle
  case w6 => exact Option.some.inj hn ▸ haddr
  case w15 => exact Option.some.inj hn ▸ hdata
  case x2 => exact Option.some.inj hn ▸ hpark
  all_goals contradiction

theorem drives_ic {ph : Phase} (h0 : ph ≠ .x0) (h3 : ph ≠ .x3) (p : Params) (b : Bus) (l : Lines) :
    (ph.drives p b l).ic = l.ic := by
  cases ph
  case x0 | x3 => contradiction
  all_goals rfl

/-- In the protocol only `W16` takes chip-select away in data mode. -/
theorem drives_of_dataWindow {p : Params} {ph : Phase} {b : Bus} {l : Lines} (h : linesFor p ph b l) (h16 : ph ≠ .w16)
    (hcs : l.cs = .asserted) (ha0 : l.a0 = .h) : (ph.drives p b l).cs = .asserted := by
  obtain rfl | rfl | rfl | rfl := linesFor_selected h hcs
  · exact hcs
  · simp [linesFor, ha0] at h
  · exact hcs
  · contradiction

/-- The state after BUS's turn at its phase, the moves `rest` still to come. -/
def busStep (rest : List Move) (s : State) : State := microStep s.bus.phase { s with moves := rest }

theorem step_busStep {s : State} {rest : List Move} (hr : s.port.rst = false) (hm : s.moves = .bus :: rest) :
    step s = .next (busStep rest s) := by
  rw [step_effect hm, effect_bus_of_released (by exact hr)]
  rfl

theorem busStep_line (rest : List Move) (s : State) :
    (busStep rest s).line = s.bus.phase.drives s.params s.bus s.line := microStep_line _ _

theorem busStep_moves {s : State} (hp : s.bus.phase ≠ .idle) (rest : List Move) : (busStep rest s).moves = rest := by
  obtain ⟨-, -, -, -, -, hmoves, -⟩ := microStep_sameButBus hp { s with moves := rest }
  exact hmoves

theorem busStep_bus {s : State} (hgo : GoesOn s) (rest : List Move) : (busStep rest s).bus = { s.bus with
    phase := s.bus.phase.succ
    t0 := if (s.bus.phase.succ.wait? s.params).isSome then s.tick else s.bus.t0 } :=
  microStep_bus (s := { s with moves := rest }) hgo.busy hgo.waited

theorem busStep_phase {s : State} (hgo : GoesOn s) (rest : List Move) : (busStep rest s).bus.phase = s.bus.phase.succ := by
  rw [busStep_bus hgo]

theorem busStep_carried {s : State} (hi : BusInv s) (hgo : GoesOn s) (rest : List Move) : Carried 0 s (busStep rest s) := by
  obtain ⟨hparams, hdec, htick, hport, henv, -⟩ := microStep_sameButBus hgo.busy { s with moves := rest }
  exact ⟨hparams, hdec, hport, henv, by rw [busStep_bus hgo], by rw [busStep_bus hgo],
    htick.trans (Nat.mod_eq_of_lt hi.tick_lt).symm⟩

theorem busStep_ready {s : State} (hi : BusInv s) (hgo : GoesOn s)
    (hfit : ∀ (ph : Phase) (n : Nat), ph.wait? s.params = some n → n < 2 ^ s.params.tickW) (rest : List Move) :
    Ready (busStep rest s) := by
  have hcarried := busStep_carried hi hgo rest
  refine ⟨microStep_busInv (s := { s with moves := rest }) hi (hgo.withMoves rest), fun hw => ?_, by rw [hcarried.port, hgo.released],
    by rwa [hcarried.params]⟩
  rw [busStep_phase hgo, hcarried.params] at hw
  exact elapsed_microStep (hgo.withMoves rest) hw

/-- A phase of a command from its entry to the entry of its successor. -/
theorem runsTo_turn {s : State} {rest : List Move} (h : Ready s) (hp : s.bus.phase ≠ .idle) (h16 : s.bus.phase ≠ .w16)
    (hm : s.moves = s.bus.phase.turn s.params ++ rest) : ∃ t, RunsTo (s.bus.phase.turn s.params).length [] s t ∧
      Carried ((s.bus.phase.wait? s.params).getD 0) s t ∧ Ready t ∧ t.bus.phase = s.bus.phase.succ ∧ t.moves = rest ∧
      (s.bus.phase ≠ .x0 → s.bus.phase ≠ .x3 → SameMemory s t ∧ t.line.ic = s.line.ic) := by
  obtain ⟨hi, hfresh, hr, hfit⟩ := h
  rw [Phase.turn, ticksThenBus, List.append_assoc] at hm
  obtain ⟨u, hticks, ⟨hcarried, hbus, hline, hmem, hiu⟩, hmu⟩ := runsTo_ticks _ hi hm
  have hgo : GoesOn u := by
    refine ⟨by rw [hcarried.port, hr], by rwa [hbus], fun n hn => ?_⟩
    rw [hbus, hcarried.params] at hn
    have htick := hcarried.tick
    rw [hn, Option.getD_some] at htick
    rw [elapsed_of_ticks hi.t0_lt hcarried.params hbus htick, hfresh (by rw [hn]; rfl), Nat.zero_add,
      Nat.mod_eq_of_lt (hfit _ _ hn)]
  have hstep := busStep_carried hiu hgo rest
  have hone : RunsTo 1 [] u (busStep rest u) :=
    .of_quiet_step (step_busStep hgo.released hmu) hstep.dec fun hcs ha0 => by
      rw [busStep_line]
      exact drives_of_dataWindow hiu.lines (by rwa [hbus]) hcs ha0
  refine ⟨busStep rest u, ?_, hcarried.trans hstep, busStep_ready hiu hgo (by rwa [hcarried.params]) rest,
    by rw [busStep_phase hgo, hbus], busStep_moves hgo.busy rest, fun h0 h3 => ?_⟩
  · simpa [Phase.turn, ticksThenBus] using hticks.trans hone
  · rw [← hbus] at h16 h0 h3
    refine ⟨fun a => (microStep_sameMemory (s := { u with moves := rest }) hiu h16 h0 h3 a).trans (hmem a), ?_⟩
    rw [busStep_line, drives_ic h0 h3, hline]

/-! ### A sequence of phases -/

/-- The moves of `n` phases from `ph` on, on the earliest schedule. -/
def turnsFrom (p : Params) (ph : Phase) (n : Nat) : List Move := (List.iterate Phase.succ ph n).flatMap (Phase.turn p)

/-- The ticks of the waits among `n` phases from `ph` on. -/
def waitsFrom (p : Params) (ph : Phase) (n : Nat) : Nat :=
  ((List.iterate Phase.succ ph n).map (fun q => (q.wait? p).getD 0)).sum

/-- `n` phases of a command: nothing is written, and no register changes unless the target's reset does. -/
theorem runsTo_turns (n : Nat) {s : State} {ph : Phase} {rest : List Move} (h : Ready s) (hp : s.bus.phase = ph)
    (hph : ∀ q ∈ List.iterate Phase.succ ph n, q ≠ .idle ∧ q ≠ .w16) (hm : s.moves = turnsFrom s.params ph n ++ rest) :
    ∃ t, RunsTo (turnsFrom s.params ph n).length [] s t ∧ Carried (waitsFrom s.params ph n) s t ∧ Ready t ∧
      t.bus.phase = Phase.succ^[n] ph ∧ t.moves = rest ∧
      ((∀ q ∈ List.iterate Phase.succ ph n, q ≠ .x0 ∧ q ≠ .x3) → SameMemory s t ∧ t.line.ic = s.line.ic) := by
  induction n generalizing s ph with
  | zero => exact ⟨s, .refl s, .refl h.busInv, h, hp, hm, fun _ => ⟨fun _ => rfl, rfl⟩⟩
  | succ n ih =>
    rw [List.iterate, List.forall_mem_cons] at hph
    obtain ⟨⟨hidle, h16⟩, hlater⟩ := hph
    have hsplit : turnsFrom s.params ph (n + 1) = ph.turn s.params ++ turnsFrom s.params ph.succ n := rfl
    subst hp
    rw [hsplit, List.append_assoc] at hm
    obtain ⟨u, hrun, hcarried, hu, hphase, hmu, hkept⟩ := runsTo_turn h hidle h16 hm
    rw [← hcarried.params] at hmu
    obtain ⟨t, hrun', hcarried', ht, hphase', hmt, hkept'⟩ := ih hu hphase hlater hmu
    rw [hcarried.params] at hrun' hcarried'
    refine ⟨t, ?_, hcarried.trans hcarried', ht, hphase', hmt, fun hx => ?_⟩
    · rw [hsplit, List.length_append]
      exact hrun.trans hrun'
    · rw [List.iterate, List.forall_mem_cons] at hx
      obtain ⟨⟨h0, h3⟩, hxs⟩ := hx
      obtain ⟨hmem, hic⟩ := hkept h0 h3
      obtain ⟨hmem', hic'⟩ := hkept' hxs
      exact ⟨fun a => (hmem' a).trans (hmem a), hic'.trans hic⟩

/-! ### The beginning and the end of a command -/

/-- In `Idle` the presented command is accepted: no line changes, and its first phase is entered (R120). -/
theorem runsTo_accept {s : State} {rest : List Move} {w : CmdWord} (hp : s.bus.phase = .idle) (hr : s.port.rst = false)
    (hc : s.port.cmd = some w) (hm : s.moves = .bus :: rest) : RunsTo 1 [] s (acceptCommand w { s with moves := rest }) := by
  have haccept : microStep .idle { s with moves := rest } = acceptCommand w { s with moves := rest } := by
    rw [microStep_idle, hc]
    exact if_pos ((cmdReady_iff _).2 hp)
  refine .of_quiet_step ?_ (acceptCommand_dec _ _) fun hcs _ => by rwa [acceptCommand_line]
  rw [step_busStep hr hm, busStep, hp, haccept]

theorem acceptCommand_ready {s : State} (hi : BusInv s) (hp : s.bus.phase = .idle) (hr : s.port.rst = false)
    (hadm : s.params.admissible) (w : CmdWord) (rest : List Move) : Ready (acceptCommand w { s with moves := rest }) := by
  refine ⟨acceptCommand_busInv (s := { s with moves := rest }) hi hp w, fun hw => ?_, ?_, fun ph n hn => ?_⟩
  · rw [acceptCommand_phase] at hw
    split at hw <;> contradiction
  · exact (acceptCommand_noInput w { s with moves := rest }).2 hr
  · rw [acceptCommand_params] at hn ⊢
    exact wait_lt_of_admissible hadm hn

/-- BUS's turn at a phase that is no wait. -/
theorem runsTo_busStep {s : State} {rest : List Move} (h : Ready s) (hp : s.bus.phase ≠ .idle)
    (hw : s.bus.phase.wait? s.params = none) (hm : s.moves = .bus :: rest) :
    RunsTo 1 (performed s (busStep rest s)) s (busStep rest s) ∧ Carried 0 s (busStep rest s) ∧ Ready (busStep rest s) ∧
    (busStep rest s).bus.phase = s.bus.phase.succ ∧ (busStep rest s).moves = rest := by
  obtain ⟨hi, -, hr, hfit⟩ := h
  have hgo : GoesOn s := ⟨hr, hp, by simp [WaitOver, hw]⟩
  have hcarried := busStep_carried hi hgo rest
  exact ⟨.of_step (step_busStep hr hm) hcarried.dec, hcarried, busStep_ready hi hgo hfit rest, busStep_phase hgo rest,
    busStep_moves hp rest⟩

/-- `W16` performs the write of `bus.data` to `bus.addr` (R138, R152). -/
theorem performed_w16 {s t : State} (hi : BusInv s) (hp : s.bus.phase = .w16) (hic : s.line.ic = .deasserted)
    (hn : s.notResetting) (hcs : t.line.cs ≠ .asserted) : performed s t = [(s.bus.addr, s.bus.data)] := by
  obtain ⟨ha0, hsel, hd, hlatch, w, hw, hg⟩ := hi.goodDataWindow hp
  rw [performed, hw]
  dsimp only
  rw [if_pos ⟨hsel, hcs, hn, hic, ha0, hg⟩, hlatch hic, hd]

/-- BUS's turn while chip-select is not asserted is nothing to the target's latch and registers, `X0` and `X3` apart. -/
theorem runsTo_busStep_unselected {s : State} {rest : List Move} (h : Ready s) (hp : s.bus.phase ≠ .idle)
    (h0 : s.bus.phase ≠ .x0) (h3 : s.bus.phase ≠ .x3) (hw : s.bus.phase.wait? s.params = none)
    (hcs : s.line.cs ≠ .asserted) (hm : s.moves = .bus :: rest) :
    ∃ t, RunsTo 1 [] s t ∧ Carried 0 s t ∧ Ready t ∧ t.bus.phase = s.bus.phase.succ ∧ t.moves = rest ∧
      t.line = s.bus.phase.drives s.params s.bus s.line ∧ t.chip.latch = s.chip.latch ∧ SameMemory s t := by
  obtain ⟨hrun, hcarried, hready, hphase, hmoves⟩ := runsTo_busStep h hp hw hm
  rw [performed_eq_nil (absurd · hcs)] at hrun
  exact ⟨_, hrun, hcarried, hready, hphase, hmoves, busStep_line rest s,
    microStep_keeps_target (s := { s with moves := rest }) h0 h3 (absurd · hcs)⟩

/-- `W16`: chip-select goes away, and the data is written (R138). -/
theorem runsTo_w16 {s : State} {rest : List Move} (h : Ready s) (hp : s.bus.phase = .w16) (hic : s.line.ic = .deasserted)
    (hm : s.moves = .bus :: rest) : ∃ t, RunsTo 1 [(s.bus.addr, s.bus.data)] s t ∧ Carried 0 s t ∧ Ready t ∧
      t.bus.phase = .w17 ∧ t.moves = rest ∧ t.line = ⟨.l, .h, .deasserted, s.bus.data, .deasserted⟩ ∧
      t.chip.latch = s.bus.addr ∧ ∀ b : Byte, chipRead t b = if b = s.bus.addr then s.bus.data else chipRead s b := by
  have hi := h.busInv
  have hlines := hi.lines
  obtain ⟨-, -, -, hlatch, -⟩ := hi.goodDataWindow hp
  obtain ⟨hread, hkept⟩ := microStep_w16_writes (s := { s with moves := rest }) hi hp hic
  obtain ⟨hrun, hcarried, hready, hphase, hmoves⟩ := runsTo_busStep h (by simp [hp]) (by rw [hp]; rfl) hm
  have hline := busStep_line rest s
  simp only [linesFor, hp] at hlines
  obtain ⟨hwe, ha0, -, hd⟩ := hlines
  rw [hp, Phase.drives, hwe, ha0, hd, hic] at hline
  rw [performed_w16 hi hp hic (by simp [State.notResetting, hm]) (by simp [hline])] at hrun
  rw [← hp] at hread hkept
  rw [hp] at hphase
  exact ⟨_, hrun, hcarried, hready, hphase, hmoves, hline, hkept.trans (hlatch hic), hread⟩

/-- `W16` to `W18`. -/
theorem runsTo_endOfWrite {s : State} {rest : List Move} (h : Ready s) (hp : s.bus.phase = .w16)
    (hic : s.line.ic = .deasserted) (hm : s.moves = .bus :: .bus :: .bus :: rest) :
    ∃ t, RunsTo 3 [(s.bus.addr, s.bus.data)] s t ∧ Carried 0 s t ∧ Ready t ∧ t.bus.phase = .idle ∧ t.moves = rest ∧
      t.line = ⟨.idle, .h, .idle, s.bus.data, .deasserted⟩ ∧
      (∀ b : Byte, chipRead t b = if b = s.bus.addr then s.bus.data else chipRead s b) ∧ t.chip.latch = s.bus.addr := by
  obtain ⟨u, hrun, hcarried, hu, hphase, hmu, hline, hlatch, hread⟩ := runsTo_w16 h hp hic hm
  obtain ⟨v, hrun', hcarried', hv, hphase', hmv, hline', hlatch', hmem'⟩ := runsTo_busStep_unselected hu (by simp [hphase])
    (by simp [hphase]) (by simp [hphase]) (by rw [hphase]; rfl) (by simp [hline]) hmu
  rw [hphase] at hphase' hline'
  rw [hline] at hline'
  obtain ⟨t, hrun'', hcarried'', ht, hphase'', hmt, hline'', hlatch'', hmem''⟩ := runsTo_busStep_unselected hv
    (by simp [hphase', Phase.succ]) (by simp [hphase', Phase.succ]) (by simp [hphase', Phase.succ])
    (by rw [hphase']; rfl) (by simp [hline', Phase.drives]) hmv
  rw [hphase'] at hphase'' hline''
  rw [hline'] at hline''
  exact ⟨t, (hrun.trans hrun').trans hrun'', (hcarried.trans hcarried').trans hcarried'', ht, hphase'', hmt, hline'',
    fun b => ((hmem'' b).trans (hmem' b)).trans (hread b), (hlatch''.trans hlatch').trans hlatch⟩

/-- `X3` (R149). -/
theorem runsTo_x3 {s : State} {rest : List Move} (h : Ready s) (hp : s.bus.phase = .x3) (hm : s.moves = .bus :: rest) :
    ∃ t, RunsTo 1 [] s t ∧ Carried 0 s t ∧ Ready t ∧ t.bus.phase = .idle ∧ t.moves = rest ∧
      t.line = ⟨.idle, s.params.parkA0, .idle, s.params.parkD, .deasserted⟩ := by
  have hlines := h.busInv.lines
  obtain ⟨hrun, hcarried, hready, hphase, hmoves⟩ := runsTo_busStep h (by simp [hp]) (by rw [hp]; rfl) hm
  have hline := busStep_line rest s
  simp only [linesFor, hp] at hlines
  obtain ⟨hwe, hcs, ha0, hd⟩ := hlines
  rw [hp, Phase.drives, hwe, hcs, ha0, hd] at hline
  rw [performed_eq_nil (by simp [hcs])] at hrun
  rw [hp] at hphase
  exact ⟨_, hrun, hcarried, hready, hphase, hmoves, hline⟩

/-! ### The two schedules -/

theorem writeSchedule_eq (p : Params) : writeSchedule p = .bus :: (turnsFrom p .w0 16 ++ [.bus, .bus, .bus]) := by
  simp [writeSchedule, turnsFrom, List.iterate, Phase.turn, Phase.succ, Phase.wait?, ticksThenBus]

theorem writeSchedule_length (p : Params) : (writeSchedule p).length = 1 + (turnsFrom p .w0 16).length + 3 := by
  simp only [writeSchedule_eq, List.length_cons, List.length_append, List.length_nil]
  omega

theorem waitsFrom_w0 (p : Params) : waitsFrom p .w0 16 = 4 * p.tSettle + p.tAddrLatch + p.tDataLatch := by
  simp only [waitsFrom, List.iterate, Phase.succ, Phase.wait?, List.map_cons, List.map_nil, List.sum_cons, List.sum_nil,
    Option.getD_some, Option.getD_none]
  omega

theorem chipResetSchedule_eq (p : Params) : chipResetSchedule p = .bus :: (turnsFrom p .x0 3 ++ [.bus]) := by
  simp [chipResetSchedule, turnsFrom, List.iterate, Phase.turn, Phase.succ, Phase.wait?, ticksThenBus]

theorem chipResetSchedule_length (p : Params) : (chipResetSchedule p).length = 1 + (turnsFrom p .x0 3).length + 1 := by
  simp only [chipResetSchedule_eq, List.length_cons, List.length_append, List.length_nil]
  omega

theorem waitsFrom_x0 (p : Params) : waitsFrom p .x0 3 = p.tResetPark := by
  simp [waitsFrom, List.iterate, Phase.succ, Phase.wait?]

theorem observation_zero_writes (s : State) : (observation 0 s).writes = [] := by rw [observation]

theorem observation_zero_events (s : State) : (observation 0 s).events = [] := by rw [observation]

/-- What a run that is known to its end gives: the end state, and the writes and events of its observation. -/
theorem RunsTo.observed {n : Nat} {ws : List (Byte × Byte)} {s t : State} (h : RunsTo n ws s t) :
    (core.run n s : Host.Outcome State Fault Refusal) = .next t ∧ (observation n s).writes = ws ∧
      (observation n s).events = [] := by
  obtain ⟨hrun, hobs⟩ := h
  have := hobs 0
  rw [Nat.zero_add] at this
  rw [observation_zero_writes, List.append_nil, observation_zero_events] at this
  exact ⟨hrun, this⟩

/-- Settles O45: acceptance, the phases up to `W16` in which nothing is written, and the three of `W16` to `W18`. -/
theorem writeRunsToItsEffect : Obligations.WriteRunsToItsEffect := by
  intro s a d rest hi hadm hp hr hic hc hm
  rw [writeSchedule_eq, List.cons_append, List.append_assoc] at hm
  have haccept := runsTo_accept hp hr hc hm
  have hready := acceptCommand_ready hi hp hr hadm (writeWord a d)
    (turnsFrom s.params .w0 16 ++ ([.bus, .bus, .bus] ++ rest))
  rw [acceptCommand_write] at haccept hready
  obtain ⟨u, hrun, hcarried, hu, hphase, hmu, hkept⟩ := runsTo_turns 16 (ph := .w0) hready rfl (by decide) rfl
  obtain ⟨hmem, hicu⟩ := hkept (by decide)
  obtain ⟨t, hrun', hcarried', ht, hphase', hmt, hline, hread, hlatch⟩ := runsTo_endOfWrite hu hphase (hicu.trans hic) hmu
  obtain ⟨hparams, hdec, hport, henv, -, -, htick⟩ := hcarried.trans hcarried'
  rw [hcarried.addr, hcarried.data] at hrun' hread
  rw [hcarried.data] at hline
  rw [hcarried.addr] at hlatch
  have hfull := (haccept.trans hrun).trans hrun'
  rw [← writeSchedule_length] at hfull
  obtain ⟨hfinal, hwrites, hevents⟩ := hfull.observed
  refine ⟨t, hfinal, hphase', hline, fun b => ?_, hlatch, hwrites, hevents, ?_, hport, hdec, henv, hparams, hmt, ht.busInv⟩
  · rw [hread, hmem b]
    rfl
  · rw [htick, waitsFrom_w0]
    rfl

/-- Settles O46: acceptance, the phases up to `X3`, and `X3`; nothing is written. -/
theorem chipResetRunsToTheReleasedTarget : Obligations.ChipResetRunsToTheReleasedTarget := by
  intro s x rest hi hadm hp hr hc hm
  rw [chipResetSchedule_eq, List.cons_append, List.append_assoc] at hm
  have haccept := runsTo_accept hp hr hc hm
  have hready := acceptCommand_ready hi hp hr hadm (chipResetWord x) (turnsFrom s.params .x0 3 ++ ([.bus] ++ rest))
  rw [acceptCommand_chipReset] at haccept hready
  obtain ⟨u, hrun, hcarried, hu, hphase, hmu, -⟩ := runsTo_turns 3 (ph := .x0) hready rfl (by decide) rfl
  obtain ⟨t, hrun', hcarried', ht, hphase', hmt, hline⟩ := runsTo_x3 hu hphase hmu
  rw [hcarried.params] at hline
  obtain ⟨hparams, hdec, hport, henv, haddr, hdata, htick⟩ := hcarried.trans hcarried'
  have hfull := (haccept.trans hrun).trans hrun'
  rw [← chipResetSchedule_length] at hfull
  obtain ⟨hfinal, hwrites, -⟩ := hfull.observed
  refine ⟨t, hfinal, hphase', hline, haddr, hdata, hwrites, ?_, hport, hdec, henv, hparams, hmt, ht.busInv⟩
  rw [htick, waitsFrom_x0]
  rfl

end Sys2Proof.Machine
end

section
/-! PROOFS. The family 41_midi_decoder: what DEC makes of a status byte (R171 to R175) and of a data byte (R176 to R180), of a byte
while an event waits (R186), and of a stream (R182, R183, R185, R189); and how the host takes an event (R201, R202). -/

namespace Sys2Proof.Machine

/-! ## A status byte, in any state -/

theorem instrumentOf_eq_ofNat (b : Byte) : instrumentOf b = BitVec.ofNat 4 (b.toNat % 16) := by
  rw [← instrumentOf_toNat, BitVec.ofNat_toNat, BitVec.setWidth_eq]

theorem opcodeNibble_eq_iff (b : Byte) (x : Nibble) : opcodeNibble b = x ↔ b.toNat / 16 = x.toNat := by
  rw [← BitVec.toNat_inj, opcodeNibble_toNat]

/-- `exec_statusByte` with the whole decoder and the port, for an answer of `decStatus` that is known. -/
theorem exec_statusByte_dec {i : Instr} {b : Byte} {s : State} {q : DecState} {buf : MsgBuf} {e : Option NoteEvent}
    (h : i.byte? = some b) (hb : 128 ≤ b.toNat) (hev : s.dec.evValid = false)
    (hout : decStatus s.params s.dec.buf b = ⟨q, buf, e⟩) : ∃ t, exec i s = .next t ∧
      t.dec = { s.dec with state := q, buf := buf } ∧ t.port.rx = none ∧ SameButDec s t := by
  have hrow := exec_statusByte h ((isStatus_iff b).2 hb) hev
  rwa [hout] at hrow

/-- Settles O17, by the nibble that is recognised. -/
theorem recognisedStatusByteStartsItsMessage : Obligations.RecognisedStatusByteStartsItsMessage := by
  intro s i b op h hb hev hop
  rw [← instrumentOf_eq_ofNat]
  obtain ⟨hon, rfl⟩ | ⟨hoff, hne, rfl⟩ := hop
  · exact exec_statusByte_dec h hb hev (decStatus_noteOn ((opcodeNibble_eq_iff b _).2 hon) _)
  · exact exec_statusByte_dec h hb hev (decStatus_noteOff ((opcodeNibble_eq_iff b _).2 hoff) hne _)

/-- Settles O18: `decStatus` raises `MalformedByte`. -/
theorem unrecognisedStatusByteResetsTheDecoder : Obligations.UnrecognisedStatusByteResetsTheDecoder := by
  intro s i b h hb hev hon hoff
  exact exec_statusByte_dec h hb hev
    (decStatus_unrecognised (mt (opcodeNibble_eq_iff b _).1 hon) (mt (opcodeNibble_eq_iff b _).1 hoff) _)

/-- A status byte that is taken (R171): `dec.state` is written and not read. -/
theorem takeByte_status {s : State} {b : Byte} (hb : isStatus b = true) (hev : s.dec.evValid = false) :
    takeByte b s = { s with
      dec := { s.dec with
        state := (decStatus s.params s.dec.buf b).state, buf := (decStatus s.params s.dec.buf b).buf }
      port := { s.port with rx := none } } := by
  rw [takeByte, takeByteFrom_ready _ b s hev, decStep_status _ _ _ _ hb, decStatus_ev, emit_none]

/-- Settles O21: `decStatus` reads neither the state nor the note and velocity, and the byte's row writes over all three. -/
theorem statusByteIsHandledAlikeInEveryState : Obligations.StatusByteIsHandledAlikeInEveryState := by
  intro s i b q n v h hb hev
  have hst := (isStatus_iff b).2 hb
  rw [exec_byte h, exec_byte h]
  exact congrArg Host.Outcome.next (Eq.trans (takeByte_status hst (by exact hev)) (takeByte_status hst hev).symm)

/-! ## A data byte, by the decoder's state -/

/-- `DATA_BYTE` in a known state: DEC answers by `decData`. -/
theorem exec_dataByte {s : State} {q : DecState} (hq : s.dec.state = q) (hev : s.dec.evValid = false) (d : BitVec 7) :
    ∃ t, exec (.dataByte d) s = .next t ∧
      t.dec = emit (decData q s.dec.buf (dataByteOf d)).ev { s.dec with
        state := (decData q s.dec.buf (dataByteOf d)).state, buf := (decData q s.dec.buf (dataByteOf d)).buf } ∧
      t.port.rx = none ∧ SameButDec s t := by
  subst hq
  have htaken := takeByteFrom_ready s.dec.state (dataByteOf d) s hev
  rw [decStep_data _ _ _ _ (isStatus_dataByteOf d)] at htaken
  exact ⟨_, exec_byte rfl s, congrArg State.dec htaken, congrArg (·.port.rx) htaken, takeByteFrom_sameButDec _ _ s⟩

/-- Settles O22, by `decData` in the two states. -/
theorem dataByteIsIgnoredOrCaptured : Obligations.DataByteIsIgnoredOrCaptured := by
  intro s d hev
  rw [← dataByteOf_eq_setWidth]
  refine ⟨fun hq => ?_, fun hq => exec_dataByte hq hev d⟩
  obtain ⟨t, ht, hdec, hrest⟩ := exec_dataByte hq hev d
  have hsame : t.dec = { s.dec with state := .awaitingStatus } := hdec
  rw [← hq] at hsame
  exact ⟨t, ht, hsame, hrest⟩

/-- Settles O23: the event is `eventOf` of the buffer and the byte. -/
theorem velocityByteEmitsItsEvent : Obligations.VelocityByteEmitsItsEvent := by
  intro s d hev hq
  obtain ⟨t, ht, hdec, hrest⟩ := exec_dataByte hq hev d
  have hevent : t.dec.ev = eventOf s.dec.buf (dataByteOf d) := by rw [hdec]; rfl
  rw [eventOf_dataByteOf] at hevent
  rw [← dataByteOf_eq_setWidth]
  refine ⟨t, ht, by rw [hdec]; rfl, by rw [hdec]; rfl, by rw [hdec]; rfl, ?_, ?_, ?_, hrest⟩
  · intro _ hd
    rw [hevent, if_pos (.inl hd)]
  · intro hop hd
    rw [hevent, if_neg (not_or.2 ⟨hd, not_not.2 hop⟩)]
  · intro hop
    rw [hevent, if_pos (.inr (by rw [hop]; decide))]

/-- Settles O24: DEC is not ready while an event waits. -/
theorem byteWaitsWhileAnEventWaits : Obligations.ByteWaitsWhileAnEventWaits := by
  rintro s i q hev (hbyte | rfl)
  · obtain ⟨b, hb⟩ := Option.isSome_iff_exists.1 hbyte
    rw [exec_byte hb, takeByte, takeByteFrom_waits _ _ _ hev]
  · rw [exec_decState]
    cases hrx : s.port.rx with
    | none => rw [decTurnFrom_noByte hrx]
    | some b => rw [decTurnFrom_byte hrx, takeByteFrom_waits _ _ _ hev]

/-! ## Streams -/

theorem decRun_append (p : Params) (m : DecMemory) (xs ys : List Byte) : decRun p m (xs ++ ys) =
    ((decRun p (decRun p m xs).1 ys).1, (decRun p m xs).2 ++ (decRun p (decRun p m xs).1 ys).2) := by
  induction xs generalizing m with
  | nil => rfl
  | cons b xs ih => simp only [List.cons_append, decRun, ih, List.append_assoc]

/-- A status byte in a stream emits nothing, and the rest of the stream goes on from its answer. -/
theorem decRun_status (p : Params) (m : DecMemory) {b : Byte} (hb : isStatus b = true) (rest : List Byte) :
    decRun p m (b :: rest) = decRun p ⟨(decStatus p m.buf b).state, (decStatus p m.buf b).buf⟩ rest := by
  simp [decRun, decStep_status _ _ _ _ hb, decStatus_ev]

theorem decRun_data (p : Params) (m : DecMemory) {b : Byte} (hb : isStatus b = false) (rest : List Byte) :
    decRun p m (b :: rest) =
      ((decRun p ⟨(decData m.state m.buf b).state, (decData m.state m.buf b).buf⟩ rest).1,
       (decData m.state m.buf b).ev.toList ++
         (decRun p ⟨(decData m.state m.buf b).state, (decData m.state m.buf b).buf⟩ rest).2) := by
  simp only [decRun, decStep_data _ _ _ _ hb]

/-- The event of a message with this opcode, note and velocity (R178 to R180). -/
theorem eventOf_message (op : Opcode) (x : Nibble) (n v : BitVec 7) (w : Byte) :
    eventOf ⟨some op, x, dataByteOf n, w⟩ (dataByteOf v) =
      if op = .noteOn ∧ v ≠ 0#7 then .on (dataByteOf n) x (dataByteOf v) else .off (dataByteOf n) x := by
  simp [eventOf, dataByteOf_eq_zero]

/-- A note and a velocity after a status byte or a complete message are a message with the remembered opcode and instrument (R183). -/
theorem decRun_pair (p : Params) (op : Opcode) (x : Nibble) (n0 v0 : Byte) (n v : BitVec 7) (rest : List Byte) :
    decRun p ⟨.awaitingNote, ⟨some op, x, n0, v0⟩⟩ (dataByteOf n :: dataByteOf v :: rest) =
      ((decRun p ⟨.awaitingNote, ⟨some op, x, dataByteOf n, dataByteOf v⟩⟩ rest).1,
       (if op = .noteOn ∧ v ≠ 0#7 then .on (dataByteOf n) x (dataByteOf v) else .off (dataByteOf n) x) ::
         (decRun p ⟨.awaitingNote, ⟨some op, x, dataByteOf n, dataByteOf v⟩⟩ rest).2) := by
  rw [decRun_data _ _ (isStatus_dataByteOf n), decRun_data _ _ (isStatus_dataByteOf v), ← eventOf_message op x n v v0]
  rfl

/-- A whole message after any stream: the status byte drops what was in progress, and the pair gives the one event. -/
theorem decRun_message {p : Params} {b : Byte} {op : Opcode} {x : Nibble} (hb : isStatus b = true)
    (hout : ∀ buf, decStatus p buf b = ⟨.awaitingNote, ⟨some op, x, 0#8, 0#8⟩, none⟩) (m : DecMemory) (before : List Byte)
    (n v : BitVec 7) : decRun p m (before ++ [b, dataByteOf n, dataByteOf v]) =
      (⟨.awaitingNote, ⟨some op, x, dataByteOf n, dataByteOf v⟩⟩, (decRun p m before).2 ++
        [if op = .noteOn ∧ v ≠ 0#7 then .on (dataByteOf n) x (dataByteOf v) else .off (dataByteOf n) x]) := by
  rw [decRun_append, decRun_status _ _ hb, hout, decRun_pair]
  rfl

/-- Settles O27, by `decRun_message` for each of the two opcodes. -/
theorem fullMessageResynchronises : Obligations.FullMessageResynchronises := by
  intro p m before x n v hon hoff hne
  simp only [← dataByteOf_eq_setWidth]
  constructor
  · have hrun := decRun_message ((isStatus_statusByte _ x).trans hon)
      (decStatus_noteOn (opcodeNibble_statusByte p.noteOnNibble x)) m before n v
    rw [instrumentOf_statusByte] at hrun
    exact hrun.trans (by simp)
  · have hrun := decRun_message ((isStatus_statusByte _ x).trans hoff)
      (decStatus_noteOff (opcodeNibble_statusByte p.noteOffNibble x) hne) m before n v
    rw [instrumentOf_statusByte] at hrun
    exact hrun.trans (by simp)

/-- Settles O28, by induction over the pairs. -/
theorem continuationRepeatsTheMessage : Obligations.ContinuationRepeatsTheMessage := by
  intro p op x n0 v0 pairs
  simp only [← dataByteOf_eq_setWidth]
  induction pairs generalizing n0 v0 with
  | nil => exact ⟨n0, v0, rfl⟩
  | cons nv pairs ih =>
    obtain ⟨n1, v1, hrest⟩ := ih (dataByteOf nv.1) (dataByteOf nv.2)
    refine ⟨n1, v1, ?_⟩
    rw [List.flatMap_cons, List.cons_append, List.cons_append, List.nil_append, decRun_pair, hrest]
    rfl

/-! ## How many events a stream gives -/

/-- The data bytes taken of a message whose event is still to come: in `AwaitingVelocity`, the note (R177). -/
def DecState.notesHeld : DecState → Nat
  | .awaitingVelocity => 1
  | .awaitingStatus | .awaitingNote => 0

theorem dataBytes_status {b : Byte} (hb : isStatus b = true) (bs : List Byte) : dataBytes (b :: bs) = dataBytes bs := by
  simp [dataBytes, hb]

theorem dataBytes_data {b : Byte} (hb : isStatus b = false) (bs : List Byte) : dataBytes (b :: bs) = dataBytes bs + 1 := by
  simp [dataBytes, hb]

theorem decStatus_notesHeld (p : Params) (buf : MsgBuf) (b : Byte) : (decStatus p buf b).state.notesHeld = 0 := by
  unfold decStatus
  dsimp only
  split
  · rfl
  · split <;> rfl

/-- A data byte pays for half an event: what it emits and holds is covered by itself and the note that was held. -/
theorem decData_notesHeld (q : DecState) (buf : MsgBuf) (b : Byte) :
    2 * (decData q buf b).ev.toList.length + (decData q buf b).state.notesHeld ≤ q.notesHeld + 1 := by
  cases q
  · exact Nat.zero_le 1
  · exact le_rfl
  · exact le_rfl

/-- Each event of a stream takes two data bytes, of which the first may have come before the stream. -/
theorem decRun_events_le (p : Params) (m : DecMemory) (bs : List Byte) :
    2 * (decRun p m bs).2.length ≤ m.state.notesHeld + dataBytes bs := by
  induction bs generalizing m with
  | nil => exact Nat.zero_le _
  | cons b bs ih =>
    cases hb : isStatus b with
    | true =>
      have hrest := ih ⟨(decStatus p m.buf b).state, (decStatus p m.buf b).buf⟩
      rw [decRun_status p m hb, dataBytes_status hb]
      rw [decStatus_notesHeld] at hrest
      omega
    | false =>
      have hrest := ih ⟨(decData m.state m.buf b).state, (decData m.state m.buf b).buf⟩
      have hbyte := decData_notesHeld m.state m.buf b
      rw [decRun_data p m hb, dataBytes_data hb, List.length_append]
      dsimp only at hrest ⊢
      omega

/-- From a message that satisfies its invariant a stream emits only what DEC can emit (R189). -/
theorem decRun_emits_emittable (p : Params) {m : DecMemory} (hi : MsgInv m.state m.buf) (bs : List Byte) :
    ∀ e ∈ (decRun p m bs).2, e.emittable = true := by
  induction bs generalizing m with
  | nil => nofun
  | cons b bs ih =>
    obtain ⟨hnext, hemit⟩ := decStep_keeps_msgInv hi p b
    intro e he
    obtain hnow | hlater := List.mem_append.1 he
    · exact hemit e (Option.mem_toList.1 hnow)
    · exact ih (m := ⟨_, _⟩) hnext e hlater

/-- Settles O29: in the reset state no note is held. -/
theorem eventsNeedTwoDataBytesEach : Obligations.EventsNeedTwoDataBytesEach := by
  intro p bs
  have hcount : 2 * (decRun p .reset bs).2.length ≤ 0 + dataBytes bs := decRun_events_le p .reset bs
  have hreset : MsgInv DecMemory.reset.state DecMemory.reset.buf := ⟨isStatus_zero, isStatus_zero, absurd rfl⟩
  exact ⟨by omega, decRun_emits_emittable p hreset bs⟩

/-! ## The host takes an event (R186, R201, R202) -/

theorem hostFree_iff (s : State) : hostFree s = true ↔ s.env.acts = [] ∧ s.port.cmd = none ∧ s.bus.phase = .idle := by
  simp [hostFree, cmdReady, and_assoc]

theorem takeWhenFree_busy {s : State} (h : hostFree s = false) (e : NoteEvent) : takeWhenFree e s = s := by
  simp [takeWhenFree, h]

theorem takeWhenFree_free {s : State} (h : hostFree s = true) (e : NoteEvent) : takeWhenFree e s = hostTake e s := by
  simp [takeWhenFree, h]

theorem exec_eventOff (x : Nibble) (n : BitVec 7) (s : State) :
    exec (.eventOff x n) s = .next (takeWhenFree (.off (dataByteOf n) x) s) := rfl

theorem exec_eventOn (x : Nibble) (n v : BitVec 7) (s : State) :
    exec (.eventOn x n v) s = .next (takeWhenFree (.on (dataByteOf n) x (dataByteOf v)) s) := rfl

/-- Settles O52, by `hostTake` when the host is free. -/
theorem hostTakesTheEvent : Obligations.HostTakesTheEvent := by
  intro s x n v
  rw [exec_eventOff, exec_eventOn, ← dataByteOf_eq_setWidth, ← dataByteOf_eq_setWidth]
  refine ⟨hostFree_iff s, fun hbusy => ?_, fun hfree => ?_, fun hfree => ?_⟩
  · rw [takeWhenFree_busy hbusy, takeWhenFree_busy hbusy]
    exact ⟨rfl, rfl⟩
  all_goals
    rw [takeWhenFree_free hfree]
    exact ⟨_, rfl, rfl, rfl, rfl, rfl, rfl, rfl, rfl, .of_chip_eq rfl, rfl, rfl, rfl⟩

end Sys2Proof.Machine
end

section
/-! PROOFS. The family 42_host_environment: the note mapper (R203, R204), what the allocator's calls do and leave unchanged (R205 to
R209), a run of calls (R216), the control loop (R201, R210, R213), and the host's invariant over every step (R205, R206, R272). -/

namespace Sys2Proof.Machine

/-! ## The note mapper (R203, R204) -/

theorem frequencyCode_getElem? (p : Params) (n : Byte) : p.freqTable[n.toNat % 12]? = some (frequencyCode p n) :=
  Vector.getElem?_eq_getElem (Nat.mod_lt _ (by decide))

theorem frequencyCode_congr (p : Params) {m n : Byte} (h : m.toNat % 12 = n.toNat % 12) :
    frequencyCode p m = frequencyCode p n := by
  apply Option.some.inj
  rw [← frequencyCode_getElem?, ← frequencyCode_getElem?, h]

/-- Settles O57, by `frequencyCode_congr` for the period. -/
theorem noteMapperIsPeriodicAndClamped : Obligations.NoteMapperIsPeriodicAndClamped := by
  intro p m n
  refine ⟨fun h => frequencyCode_congr p (by omega), frequencyCode_getElem? p n, ?_⟩
  unfold octave
  omega

/-! ## The voice table: a slot by its index, and what an act makes of it (R205) -/

theorem slotOff_eq_false_iff (table : List VoiceSlot) (i : Nat) :
    slotOff table i = false ↔ ∀ v, table[i]? = some v → v.on = true := by
  unfold slotOff
  cases table[i]? <;> simp

theorem slotOff_set_same {table : List VoiceSlot} {i : Nat} (hi : i < table.length) (v : VoiceSlot) :
    slotOff (table.set i v) i = !v.on := by
  simp [slotOff, hi]

theorem slotOff_set_other {i j : Nat} (h : i ≠ j) (table : List VoiceSlot) (v : VoiceSlot) :
    slotOff (table.set i v) j = slotOff table j := by
  simp [slotOff, h]

@[simp] theorem onTable_command (w : CmdWord) (table : List VoiceSlot) : (HostAct.command w).onTable table = table := rfl
@[simp] theorem onTable_claim (i : Nat) (n : Byte) (x : Nibble) (table : List VoiceSlot) :
    (HostAct.claim i n x).onTable table = table.set i ⟨n, x, true⟩ := rfl
@[simp] theorem onTable_allOff (table : List VoiceSlot) :
    HostAct.allOff.onTable table = table.map (fun v => ⟨v.note, v.instrument, false⟩) := rfl

theorem onTable_release {table : List VoiceSlot} {i : Nat} {v : VoiceSlot} (h : table[i]? = some v) :
    (HostAct.release i).onTable table = table.set i ⟨v.note, v.instrument, false⟩ := by
  simp [HostAct.onTable, List.modify_eq_set_getElem?, h]

@[simp] theorem onTable_length (a : HostAct) (table : List VoiceSlot) : (a.onTable table).length = table.length := by
  cases a <;> simp [HostAct.onTable]

@[simp] theorem foldl_onTable_commands (ws : List CmdWord) (table : List VoiceSlot) :
    (ws.map HostAct.command).foldl (fun table a => a.onTable table) table = table := by
  induction ws with
  | nil => rfl
  | cons w ws ih => exact ih

/-! ## `noteOn` (R207) -/

theorem findOff_eq_some_iff (table : List VoiceSlot) (n c i : Nat) : findOff table n c = some i ↔
    ∃ k < n, i = (c + k) % n ∧ slotOff table i = true ∧ ∀ j < k, slotOff table ((c + j) % n) = false := by
  simp only [findOff, List.find?_map, Option.map_eq_some_iff, List.find?_range_eq_some, Function.comp_apply, List.mem_range,
    Bool.not_eq_true']
  constructor
  · rintro ⟨k, ⟨hoff, hk, hleast⟩, rfl⟩
    exact ⟨k, hk, rfl, hoff, hleast⟩
  · rintro ⟨k, hk, rfl, hoff, hleast⟩
    exact ⟨k, ⟨hoff, hk, hleast⟩, rfl⟩

theorem findOff_eq_none_iff (table : List VoiceSlot) (n c : Nat) :
    findOff table n c = none ↔ ∀ k < n, slotOff table ((c + k) % n) = false := by
  simp [findOff]

/-- Every index is met when the scan wraps around from the cursor. -/
theorem exists_offset_from_cursor {n c i : Nat} (hc : c < n) (hi : i < n) : ∃ k < n, (c + k) % n = i := by
  refine ⟨(i + (n - c)) % n, Nat.mod_lt _ (by omega), ?_⟩
  rw [Nat.add_mod_mod, show c + (i + (n - c)) = i + n by omega, Nat.add_mod_right, Nat.mod_eq_of_lt hi]

/-- The scan that starts one slot later meets at `k` what this one meets at `k + 1`. -/
theorem succ_cursor_add_mod (c k n : Nat) : ((c + 1) % n + k) % n = (c + (k + 1)) % n := by
  rw [Nat.mod_add_mod, Nat.add_assoc, Nat.add_comm 1 k]

theorem noteOn_claims {p : Params} {e : Env} {i : Nat} (h : findOff e.table p.nVoices e.cursor = some i) (n : Byte) (x : Nibble)
    (v : Byte) : noteOn p n x v e =
      ({ e with cursor := (e.cursor + 1) % p.nVoices, acts := e.acts ++ noteOnActs p i n x v }, .slot i) := by
  simp [noteOn, h]

theorem noteOn_exhausted {p : Params} {e : Env} (h : findOff e.table p.nVoices e.cursor = none) (n : Byte) (x : Nibble)
    (v : Byte) : noteOn p n x v e = ({ e with cursor := (e.cursor + 1) % p.nVoices }, .exhausted) := by
  simp [noteOn, h]

theorem noteOn_claims_settle {p : Params} {e : Env} {i : Nat} (h : findOff e.table p.nVoices e.cursor = some i)
    (hacts : e.acts = []) (n : Byte) (x : Nibble) (v : Byte) : (noteOn p n x v e).1.settle =
      { e with cursor := (e.cursor + 1) % p.nVoices, table := e.table.set i ⟨n, x, true⟩, acts := [] } := by
  simp [noteOn_claims h, hacts, noteOnActs, Env.settle]

/-- Settles O53, by what `findOff` answers from the cursor. -/
theorem noteOnClaimsTheFirstFreeSlotOrIsExhausted : Obligations.NoteOnClaimsTheFirstFreeSlotOrIsExhausted := by
  intro p e n x v _ hc
  cases hfind : findOff e.table p.nVoices e.cursor with
  | some i =>
    obtain ⟨k, hk, hi, hoff, hleast⟩ := (findOff_eq_some_iff ..).1 hfind
    exact .inl ⟨k, i, hk, hi, hoff, hleast, noteOn_claims hfind n x v,
      fun hacts => congrArg Env.table (noteOn_claims_settle hfind hacts n x v)⟩
  | none =>
    refine .inr ⟨fun i hi => ?_, noteOn_exhausted hfind n x v⟩
    obtain ⟨k, hk, rfl⟩ := exists_offset_from_cursor hc hi
    exact (findOff_eq_none_iff ..).1 hfind k hk

/-! ## `noteOff` (R208) -/

theorem sounds_iff (n : Byte) (x : Nibble) (v : VoiceSlot) : v.sounds n x = true ↔ v = ⟨n, x, true⟩ := by
  cases v
  simp [VoiceSlot.sounds, and_assoc, and_comm, and_left_comm]

theorem noteOff_releases {p : Params} {e : Env} {n : Byte} {x : Nibble} {i : Nat}
    (h : e.table.findIdx? (VoiceSlot.sounds n x) = some i) (hi : e.table[i]? = some ⟨n, x, true⟩) :
    noteOff p n x e = ({ e with acts := e.acts ++ [gateOffWrite p i ⟨n, x, true⟩, .release i] }, .ok) := by
  simp [noteOff, h, hi]

theorem noteOff_notFound (p : Params) {e : Env} {n : Byte} {x : Nibble} (h : ∀ v ∈ e.table, v ≠ ⟨n, x, true⟩) :
    noteOff p n x e = (e, .notFound) := by
  have hnone : e.table.findIdx? (VoiceSlot.sounds n x) = none := by
    simpa [List.findIdx?_eq_none_iff, ← Bool.not_eq_true, sounds_iff] using h
  simp [noteOff, hnone]

/-- Settles O54, by the first index that `sounds` finds. -/
theorem noteOffReleasesTheFirstMatchOrIsNotFound : Obligations.NoteOffReleasesTheFirstMatchOrIsNotFound := by
  intro p e n x
  cases hfind : e.table.findIdx? (VoiceSlot.sounds n x) with
  | some i =>
    obtain ⟨hlt, hsounds, hleast⟩ := List.findIdx?_eq_some_iff_getElem.1 hfind
    have hi : e.table[i]? = some ⟨n, x, true⟩ := by
      rw [List.getElem?_eq_getElem hlt, (sounds_iff n x _).1 hsounds]
    refine .inl ⟨i, hi, fun j hj hmatch => ?_, noteOff_releases hfind hi, fun hacts => ?_⟩
    · obtain ⟨hjlt, hmatch⟩ := List.getElem?_eq_some_iff.1 hmatch
      exact hleast j hj ((sounds_iff n x _).2 hmatch)
    · simp [noteOff_releases hfind hi, hacts, Env.settle, gateOffWrite, onTable_release hi]
  | none =>
    have hno : ∀ v ∈ e.table, v ≠ ⟨n, x, true⟩ := fun v hv hmatch => by
      simpa [(sounds_iff n x v).2 hmatch] using List.findIdx?_eq_none_iff.1 hfind v hv
    exact .inr ⟨fun i hmatch => hno _ (List.mem_of_getElem? hmatch) rfl, noteOff_notFound p hno⟩

/-! ## `killAll` (R209) -/

/-- The words of the gate-off writes of `killAll`, in index order; `killAll_eq` ties them to it. -/
def gateOffWords (p : Params) (table : List VoiceSlot) : List CmdWord :=
  table.zipIdx.map (fun vi => writeWord (gateAddr p vi.2) (Config.gateOffReg vi.1.note vi.1.instrument vi.1.on))

theorem killAll_eq (p : Params) (e : Env) :
    killAll p e = { e with acts := e.acts ++ (gateOffWords p e.table).map .command ++ [.allOff] } := by
  simp [killAll, gateOffWords, gateOffWrite]

theorem killAll_settle_table (p : Params) (e : Env) :
    (killAll p e).settle.table = e.settle.table.map (fun v => ⟨v.note, v.instrument, false⟩) := by
  simp [killAll_eq, Env.settle]

theorem settle_of_no_acts {e : Env} (h : e.acts = []) : e.settle = e := by
  cases e
  subst h
  rfl

/-- Settles O55, by `killAll_settle_table`: no slot of the table that `killAll` leaves is `On`. -/
theorem killAllSilencesEveryVoice : Obligations.KillAllSilencesEveryVoice := by
  intro p e
  have hoff : ∀ v ∈ (killAll p e).settle.table, v.on = false := by
    simp [killAll_settle_table]
  refine ⟨⟨gateOffWords p e.table, killAll_eq p e, by simp [gateOffWords], fun i v hv => by simp [gateOffWords, hv]⟩,
    hoff, fun hacts => ?_, fun n x => ?_⟩
  · rw [killAll_settle_table, settle_of_no_acts hacts]
  · rw [noteOff_notFound]
    rintro v hv rfl
    simpa using hoff _ hv

/-! ## A run of `noteOn` calls (R216) -/

/-- The host has nothing left to do, and of its `N` slots the `m` from the cursor on, wrapping, are `Off` and the others `On`. -/
structure FreeAhead (p : Params) (m : Nat) (e : Env) : Prop where
  acts : e.acts = []
  slots : e.table.length = p.nVoices
  cursor : e.cursor < p.nVoices
  free : ∀ j < p.nVoices, slotOff e.table ((e.cursor + j) % p.nVoices) = decide (j < m)

theorem FreeAhead.findOff_none {p : Params} {e : Env} (h : FreeAhead p 0 e) : findOff e.table p.nVoices e.cursor = none :=
  (findOff_eq_none_iff ..).2 fun k hk => by simp [h.free k hk]

theorem FreeAhead.findOff_cursor {p : Params} {m : Nat} {e : Env} (h : FreeAhead p (m + 1) e) :
    findOff e.table p.nVoices e.cursor = some e.cursor := by
  have hN : 0 < p.nVoices := Nat.zero_lt_of_lt h.cursor
  have hoff := h.free 0 hN
  rw [Nat.add_zero, Nat.mod_eq_of_lt h.cursor] at hoff
  exact (findOff_eq_some_iff ..).2 ⟨0, hN, by rw [Nat.add_zero, Nat.mod_eq_of_lt h.cursor], by simp [hoff], by simp⟩

/-- A call takes the slot at the cursor, which becomes the last one of the next scan. -/
theorem FreeAhead.after_noteOn {p : Params} {m : Nat} {e : Env} (h : FreeAhead p (m + 1) e) (hm : m < p.nVoices) (n : Byte) (x : Nibble)
    (v : Byte) : FreeAhead p m (noteOn p n x v e).1.settle := by
  rw [noteOn_claims_settle h.findOff_cursor h.acts]
  refine ⟨rfl, by simpa using h.slots, Nat.mod_lt _ (by omega), fun j hj => ?_⟩
  have hcursor := h.cursor
  have hslots := h.slots
  dsimp only
  rw [succ_cursor_add_mod]
  by_cases hlast : j + 1 = p.nVoices
  · rw [hlast, Nat.add_mod_right, Nat.mod_eq_of_lt hcursor, slotOff_set_same (by omega)]
    simpa using (by omega : m ≤ j)
  · have hne : e.cursor ≠ (e.cursor + (j + 1)) % p.nVoices := by
      intro heq
      obtain hlt | hge := Nat.lt_or_ge (e.cursor + (j + 1)) p.nVoices
      · rw [Nat.mod_eq_of_lt hlt] at heq
        omega
      · rw [Nat.mod_eq_sub_mod hge, Nat.mod_eq_of_lt (by omega)] at heq
        omega
    rw [slotOff_set_other hne, h.free (j + 1) (by omega)]
    simp

theorem noteOnAll_cons (p : Params) (e : Env) (n : Byte) (x : Nibble) (v : Byte) (rest : List (Byte × Nibble × Byte)) :
    noteOnAll p e ((n, x, v) :: rest) =
      ((noteOnAll p (noteOn p n x v e).1.settle rest).1,
       (noteOn p n x v e).2 :: (noteOnAll p (noteOn p n x v e).1.settle rest).2) := rfl

/-- Calls take the free slots one by one from the cursor on, and leave those after them free. -/
theorem noteOnAll_of_freeAhead {p : Params} {m : Nat} {e : Env} (h : FreeAhead p m e) (hm : m ≤ p.nVoices)
    (calls : List (Byte × Nibble × Byte)) (hcalls : calls.length ≤ m) :
    (noteOnAll p e calls).2 = (List.range calls.length).map (fun k => .slot ((e.cursor + k) % p.nVoices)) ∧
    FreeAhead p (m - calls.length) (noteOnAll p e calls).1 := by
  induction calls generalizing m e with
  | nil => exact ⟨rfl, h⟩
  | cons call rest ih =>
    obtain ⟨n, x, v⟩ := call
    obtain ⟨m, rfl⟩ : ∃ m', m = m' + 1 := Nat.exists_eq_add_one.2 (Nat.zero_lt_of_lt hcalls)
    obtain ⟨hanswers, hfree⟩ := ih (h.after_noteOn hm n x v) (by omega) (Nat.le_of_succ_le_succ hcalls)
    rw [noteOnAll_cons]
    refine ⟨?_, by simpa using hfree⟩
    rw [hanswers, noteOn_claims_settle h.findOff_cursor h.acts, noteOn_claims h.findOff_cursor, List.length_cons,
      List.range_succ_eq_map]
    simp only [succ_cursor_add_mod, List.map_cons, List.map_map, Function.comp_def, Nat.add_zero, Nat.mod_eq_of_lt h.cursor]

/-- Settles O56, by induction over the calls with the free slots ahead of the cursor (`noteOnAll_of_freeAhead`). -/
theorem sequentialNoteOnsFillTheTableRoundRobin : Obligations.SequentialNoteOnsFillTheTableRoundRobin := by
  intro p e calls hN hslots hacts hcursor hoff hcalls
  have hfree : FreeAhead p p.nVoices e :=
    ⟨hacts, hslots, hcursor, fun j hj => by rw [hoff _ (Nat.mod_lt _ hN), decide_eq_true hj]⟩
  obtain ⟨hanswers, hleft⟩ := noteOnAll_of_freeAhead hfree le_rfl calls hcalls
  refine ⟨hanswers, fun hall n x v => ?_⟩
  rw [hall, Nat.sub_self] at hleft
  rw [noteOn_exhausted hleft.findOff_none]
  exact ⟨rfl, rfl⟩

/-! ## The control loop (R201, R213) -/

theorem step_loop {s : State} {rest : List Move} (h : s.moves = .loop :: rest) :
    step s = .next (loopTurn { s with moves := rest }) := step_effect h

/-- The loop holds while `rst` is asserted, BUS is busy or a command is presented. -/
theorem loopTurn_holds {s : State} (h : s.port.rst = true ∨ s.bus.phase ≠ .idle ∨ s.port.cmd.isSome = true) : loopTurn s = s := by
  have hact : loopAct s = .hold := by
    rw [loopAct, if_pos]
    simpa [busy_iff, or_assoc, or_comm, or_left_comm] using h
  rw [loopTurn, hact]

/-- `rst` is released, BUS is in `Idle` and no command is presented: the host can act. -/
structure AtRest (s : State) : Prop where
  released : s.port.rst = false
  idle : s.bus.phase = .idle
  noCommand : s.port.cmd = none

section
variable {s : State} (h : AtRest s)
include h

theorem AtRest.not_busy : busy s = false := by simp [busy, h.idle]

theorem AtRest.loopAct_eq : loopAct s =
    if !s.env.acts.isEmpty then .issue
    else if !s.env.keyEvents.isEmpty then .keyEvent
    else if s.dec.evValid then .takeEvent
    else if s.port.rx.isSome then .hold
    else if s.env.mode ≠ s.env.modeSignal then .switchMode
    else .poll := by
  simp [loopAct, h.released, h.noCommand, h.not_busy]

theorem AtRest.loopTurn_act {a : HostAct} {acts : List HostAct} (ha : s.env.acts = a :: acts) : loopTurn s = doNextAct s := by
  rw [loopTurn, h.loopAct_eq, ← nextAct_released s h.released]
  simp [ha]

theorem AtRest.doNextAct_owing {w : CmdWord} {acts : List HostAct} (ha : s.env.acts = .command w :: acts)
    (ho : s.env.owesChipReset = true) (hw : w.getLsbD 16 = false) :
    doNextAct s = present (chipResetWord 0#16) s.env.acts s := by
  rw [doNextAct, h.noCommand, ha]
  exact if_pos ⟨ho, hw⟩

theorem AtRest.doNextAct_command {w : CmdWord} {acts : List HostAct} (ha : s.env.acts = .command w :: acts)
    (ho : s.env.owesChipReset = false ∨ w.getLsbD 16 = true) : doNextAct s = present w acts s := by
  obtain ho | hw := ho
  · simp [doNextAct, h.noCommand, ha, ho]
  · simp [doNextAct, h.noCommand, ha, hw]

theorem AtRest.doNextAct_table {a : HostAct} {acts : List HostAct} (ha : s.env.acts = a :: acts) (hw : ∀ w, a ≠ .command w) :
    doNextAct s = { s with env := { s.env with table := a.onTable s.env.table, acts := acts } } := by
  cases a with
  | command w => exact absurd rfl (hw w)
  | claim | release | allOff => simp [doNextAct, h.noCommand, ha, h.not_busy]

theorem AtRest.loopTurn_keyEvent (ha : s.env.acts = []) {e : NoteEvent} {es : List NoteEvent} (hk : s.env.keyEvents = e :: es) :
    loopTurn s = { s with env := allocate s.params e { s.env with keyEvents := es } } := by
  rw [loopTurn, h.loopAct_eq]
  simp [ha, hk, handleKeyEvent]

theorem AtRest.loopTurn_event (ha : s.env.acts = []) (hk : s.env.keyEvents = []) (hev : s.dec.evValid = true) :
    loopTurn s = hostTake s.dec.ev s := by
  rw [loopTurn, h.loopAct_eq]
  simp [ha, hk, hev, takePending, takeWhenFree_free ((hostFree_iff s).2 ⟨ha, h.noCommand, h.idle⟩)]

theorem AtRest.loopTurn_undecoded (ha : s.env.acts = []) (hk : s.env.keyEvents = []) (hev : s.dec.evValid = false)
    (hrx : s.port.rx.isSome = true) : loopTurn s = s := by
  rw [loopTurn, h.loopAct_eq]
  simp [ha, hk, hev, hrx]

theorem AtRest.loopTurn_switchMode (ha : s.env.acts = []) (hk : s.env.keyEvents = []) (hev : s.dec.evValid = false)
    (hrx : s.port.rx = none) (hmode : s.env.mode ≠ s.env.modeSignal) : loopTurn s = switchMode s := by
  rw [loopTurn, h.loopAct_eq]
  simp [ha, hk, hev, hrx, hmode]

theorem AtRest.loopTurn_poll (ha : s.env.acts = []) (hk : s.env.keyEvents = []) (hev : s.dec.evValid = false)
    (hrx : s.port.rx = none) (hmode : s.env.mode = s.env.modeSignal) : loopTurn s = pollSource s := by
  rw [loopTurn, h.loopAct_eq]
  simp [ha, hk, hev, hrx, hmode]

end

theorem pollSource_matrix {s : State} (h : s.env.mode = .matrix) : pollSource s = { s with env := { s.env with
    keyEvents := keyDiff s.env.keysNow s.env.keysPrev, keysPrev := s.env.keysNow } } := by
  simp [pollSource, h]

theorem pollSource_noByte {s : State} (hmode : s.env.mode = .serial) (hu : s.env.uart = []) : pollSource s = s := by
  simp [pollSource, hmode, handByte, hu]

theorem pollSource_byte {s : State} {b : Byte} {bs : List Byte} (hmode : s.env.mode = .serial) (hu : s.env.uart = b :: bs)
    (hrx : s.port.rx = none) (hev : s.dec.evValid = false) :
    pollSource s = { s with port := { s.port with rx := some b }, env := { s.env with uart := bs } } := by
  simp [pollSource, hmode, handByte, hrx, hu, rxReady, hev]

/-- The events of a scan are those of the keys whose state changed (R210). -/
theorem mem_keyDiff_iff (now prev : List Bool) (ev : NoteEvent) : ev ∈ keyDiff now prev ↔
    ∃ k b, now[k]? = some b ∧ b ≠ prev.getD k false ∧ ev = keyEvent k b := by
  simp only [keyDiff, List.mem_filterMap, Prod.exists, List.mem_zipIdx_iff_getElem?, Option.ite_none_right_eq_some, bne_iff_ne,
    Option.some.injEq]
  rw [exists_comm]
  simp only [eq_comm]

/-- Settles O58: an iteration by what the host has to do first (the lemmas of `AtRest`), and `mem_keyDiff_iff`. -/
theorem controlLoopRunsEachEventToCompletion : Obligations.ControlLoopRunsEachEventToCompletion := by
  intro s rest hm
  rw [step_loop hm]
  simp only [Host.Outcome.next.injEq]
  refine ⟨fun hhold => loopTurn_holds hhold, fun hr hp hc => ?_, mem_keyDiff_iff _ _⟩
  have hrest : AtRest { s with moves := rest } := ⟨hr, hp, hc⟩
  refine ⟨fun w acts ha => ⟨fun ho hw => ?_, fun ho => ?_⟩, fun a acts ha hw => ?_, fun ha => ⟨fun e es hk => ?_, fun hk =>
    ⟨fun hev => ?_, fun hev => ⟨fun hrx => ?_, fun hrx => ⟨fun hmode => ?_, fun hmode => ⟨fun hser hu => ?_, fun b bs hser hu => ?_,
      fun hmat => ?_⟩⟩⟩⟩⟩⟩
  · exact (hrest.loopTurn_act ha).trans (hrest.doNextAct_owing ha ho hw)
  · exact (hrest.loopTurn_act ha).trans (hrest.doNextAct_command ha ho)
  · exact (hrest.loopTurn_act ha).trans (hrest.doNextAct_table ha hw)
  · exact hrest.loopTurn_keyEvent ha hk
  · exact hrest.loopTurn_event ha hk hev
  · exact hrest.loopTurn_undecoded ha hk hev hrx
  · exact hrest.loopTurn_switchMode ha hk hev hrx hmode
  · exact (hrest.loopTurn_poll ha hk hev hrx hmode).trans (pollSource_noByte hser hu)
  · exact (hrest.loopTurn_poll ha hk hev hrx hmode).trans (pollSource_byte hser hu hrx hev)
  · exact (hrest.loopTurn_poll ha hk hev hrx hmode).trans (pollSource_matrix hmat)

/-! ## The host's invariant over a step (R205, R206, R272) -/

/-- From `s` to `t` the host's invariant comes to hold, and a `chip_reset()` owed in `s` is owed no longer only with that command on
the port. -/
def HostStep (s t : State) : Prop :=
  EnvInv t ∧ (s.env.owesChipReset = true → t.env.owesChipReset = false → ∃ w, t.port.cmd = some w ∧ w.getLsbD 16 = true)

/-- A change of the host that leaves what is owed as it is and presents no command. -/
theorem HostStep.of_sameDebt {s t : State} (hi : EnvInv s) (hslots : t.env.table.length = t.params.nVoices)
    (hcursor : t.env.cursor < t.params.nVoices) (howes : t.env.owesChipReset = s.env.owesChipReset)
    (hcmd : s.port.cmd = none → t.port.cmd = none) : HostStep s t := by
  obtain ⟨-, -, hquiet⟩ := hi
  refine ⟨⟨hslots, hcursor, fun ho => hcmd (hquiet (howes ▸ ho))⟩, fun ho hno => ?_⟩
  simp [howes, ho] at hno

theorem HostStep.of_sameHost {s t : State} (hi : EnvInv s) (hparams : t.params = s.params) (henv : t.env = s.env)
    (hcmd : s.port.cmd = none → t.port.cmd = none) : HostStep s t := by
  have ⟨hslots, hcursor, _⟩ := hi
  exact .of_sameDebt hi (by rw [henv, hparams, hslots]) (by rwa [henv, hparams]) (by rw [henv]) hcmd

theorem HostStep.refl {s : State} (hi : EnvInv s) : HostStep s s := .of_sameHost hi rfl rfl id

/-- All that an event can have the allocator do: advance the cursor, and add to what the host does next. -/
theorem allocate_cases (p : Params) (ev : NoteEvent) (e : Env) : ∃ acts, allocate p ev e = { e with acts := acts } ∨
    allocate p ev e = { e with cursor := (e.cursor + 1) % p.nVoices, acts := acts } := by
  cases ev with
  | on n x v =>
    cases hfind : findOff e.table p.nVoices e.cursor with
    | some i => exact ⟨_, .inr (congrArg Prod.fst (noteOn_claims hfind n x v))⟩
    | none => exact ⟨_, .inr (congrArg Prod.fst (noteOn_exhausted hfind n x v))⟩
  | off n x =>
    obtain ⟨i, -, -, he, -⟩ | ⟨-, he⟩ := noteOffReleasesTheFirstMatchOrIsNotFound p e n x
    · exact ⟨_, .inl (congrArg Prod.fst he)⟩
    · exact ⟨_, .inl (congrArg Prod.fst he)⟩

theorem allocate_keeps {p : Params} {e : Env} (h : e.cursor < p.nVoices) (ev : NoteEvent) : (allocate p ev e).table = e.table ∧
    (allocate p ev e).cursor < p.nVoices ∧ (allocate p ev e).owesChipReset = e.owesChipReset := by
  obtain ⟨acts, he | he⟩ := allocate_cases p ev e <;> rw [he]
  · exact ⟨rfl, h, rfl⟩
  · exact ⟨rfl, Nat.mod_lt _ (Nat.zero_lt_of_lt h), rfl⟩

theorem takePending_hostStep {s : State} (hi : EnvInv s) : HostStep s (takePending s) := by
  obtain ⟨-, -, he⟩ | he := takePending_cases s <;> rw [he]
  · have ⟨hslots, hcursor, _⟩ := hi
    obtain ⟨htable, hlt, howes⟩ := allocate_keeps hcursor s.dec.ev
    exact .of_sameDebt hi ((congrArg List.length htable).trans hslots) hlt howes id
  · exact .refl hi

theorem handleKeyEvent_hostStep {s : State} (hi : EnvInv s) : HostStep s (handleKeyEvent s) := by
  unfold handleKeyEvent
  split
  · exact .refl hi
  · next e rest _ =>
    have ⟨hslots, hcursor, _⟩ := hi
    obtain ⟨htable, hlt, howes⟩ := allocate_keeps (e := { s.env with keyEvents := rest }) hcursor e
    exact .of_sameDebt hi ((congrArg List.length htable).trans hslots) hlt howes id

theorem handByte_hostStep {s : State} (hi : EnvInv s) : HostStep s (handByte s) := by
  have ⟨hslots, hcursor, _⟩ := hi
  obtain he | ⟨b, rest, -, -, -, -, he⟩ := handByte_cases s <;> rw [he]
  · exact .refl hi
  · exact .of_sameDebt hi hslots hcursor rfl id

theorem pollSource_hostStep {s : State} (hi : EnvInv s) : HostStep s (pollSource s) := by
  have ⟨hslots, hcursor, _⟩ := hi
  unfold pollSource
  split
  · exact handByte_hostStep hi
  · exact .of_sameDebt hi hslots hcursor rfl id

/-- A command that is presented ends the debt: it is the `chip_reset()` owed, or nothing is owed, or it resets the target itself. -/
theorem present_hostStep {s : State} (hi : EnvInv s) {w : CmdWord} (hw : s.env.owesChipReset = false ∨ w.getLsbD 16 = true)
    (acts : List HostAct) : HostStep s (present w acts s) := by
  obtain ⟨hslots, hcursor, -⟩ := hi
  refine ⟨⟨hslots, hcursor, nofun⟩, fun ho _ => ⟨w, rfl, ?_⟩⟩
  simpa [ho] using hw

theorem nextAct_hostStep {s : State} (hi : EnvInv s) : HostStep s (nextAct s) := by
  cases hr : s.port.rst with
  | true =>
    rw [nextAct_rst s hr]
    exact .refl hi
  | false =>
    have ⟨hslots, hcursor, _⟩ := hi
    rw [nextAct_released s hr]
    obtain he | ⟨w, rest, -, -, ⟨-, -, he⟩ | ⟨hw, he⟩⟩ | ⟨a, rest, -, -, -, -, he⟩ := doNextAct_cases s <;> rw [he]
    · exact .refl hi
    · exact present_hostStep hi (.inr (chipResetWord_isReset 0#16)) _
    · exact present_hostStep hi hw rest
    · exact .of_sameDebt hi ((onTable_length a _).trans hslots) hcursor rfl id

theorem loopTurn_hostStep {s : State} (hi : EnvInv s) : HostStep s (loopTurn s) := by
  obtain he | he | he | he | he | he := loopTurn_cases s <;> rw [he]
  · exact .refl hi
  · exact nextAct_hostStep hi
  · exact handleKeyEvent_hostStep hi
  · exact takePending_hostStep hi
  · have ⟨hslots, hcursor, _⟩ := hi
    exact .of_sameDebt hi hslots hcursor rfl id
  · exact pollSource_hostStep hi

/-- After the host's initialisation a `chip_reset()` is owed and no command is presented. -/
theorem hostInit_hostStep (s : State) {t : State} (hN : 1 ≤ t.params.nVoices) : HostStep s (hostInit t) :=
  ⟨⟨List.length_replicate, hN, fun _ => rfl⟩, fun _ => nofun⟩

theorem hostStart_hostStep {s : State} (hN : 1 ≤ s.params.nVoices) (hi : EnvInv s) : HostStep s (hostStart s) := by
  obtain ⟨-, -, -, he⟩ | he := hostStart_cases s <;> rw [he]
  · exact hostInit_hostStep s hN
  · exact .refl hi

theorem rstRelease_hostStep {s : State} (hN : 1 ≤ s.params.nVoices) (hi : EnvInv s) : HostStep s (rstRelease s) := by
  unfold rstRelease
  split
  · exact hostInit_hostStep s hN
  · exact .refl hi

theorem decTurn_sameButDec (s : State) : SameButDec s (Move.effect .dec s) := by
  unfold Move.effect decTurnFrom
  dsimp only
  split
  · exact ⟨rfl, rfl, rfl, rfl, rfl, rfl, rfl, fun _ => rfl, rfl, rfl, rfl⟩
  · split
    · exact ⟨rfl, rfl, rfl, rfl, rfl, rfl, rfl, fun _ => rfl, rfl, rfl, rfl⟩
    · exact takeByteFrom_sameButDec s.dec.state _ s

theorem decTurn_hostStep {s : State} (hi : EnvInv s) : HostStep s (Move.effect .dec s) := by
  obtain ⟨hparams, -, -, -, hcmd, -, -, -, henv, -⟩ := decTurn_sameButDec s
  exact .of_sameHost hi hparams henv hcmd.trans

theorem microStep_hostStep {s : State} (hi : EnvInv s) (hgo : GoesOn s) : HostStep s (microStep s.bus.phase s) := by
  obtain ⟨hparams, -, -, hport, henv, -⟩ := microStep_sameButBus hgo.busy s
  exact .of_sameHost hi hparams henv (congrArg Ports.cmd hport).trans

theorem busTurn_hostStep {s : State} (hi : EnvInv s) : HostStep s (Move.effect .bus s) := by
  obtain he | ⟨hgo, he⟩ | ⟨-, -, w, -, he⟩ := busTurn_sequencer_cases s <;> rw [he]
  · exact .refl hi
  · exact microStep_hostStep hi hgo
  · exact .of_sameHost hi (acceptCommand_params w s) (acceptCommand_env w s) fun _ => acceptCommand_cmd w s

theorem addressTurn_hostStep {s : State} (hi : EnvInv s) : HostStep s (Move.effect .address s) := by
  obtain he | ⟨hgo, he⟩ := addressTurn_sequencer_cases s <;> rw [he]
  · exact .refl hi
  · exact microStep_hostStep hi hgo

theorem effect_hostStep (m : Move) {s : State} (hN : 1 ≤ s.params.nVoices) (hi : EnvInv s) : HostStep s (m.effect s) := by
  have ⟨hslots, hcursor, _⟩ := hi
  cases m with
  | tick | rstAssert => exact .of_sameHost hi rfl rfl id
  | dec => exact decTurn_hostStep hi
  | bus => exact busTurn_hostStep hi
  | address => exact addressTurn_hostStep hi
  | takeEvent => exact takePending_hostStep hi
  | handByte => exact handByte_hostStep hi
  | issue => exact nextAct_hostStep hi
  | loop => exact loopTurn_hostStep hi
  | hostInit => exact hostStart_hostStep hN hi
  | rstRelease => exact rstRelease_hostStep hN hi
  | request | receive | setMode | setKeys => exact .of_sameDebt hi hslots hcursor rfl id

/-- Settles O16, by `effect_hostStep`: the host's debt ends only where a command is presented (`present_hostStep`). -/
theorem everyStepKeepsTheHostInvariant : Obligations.EveryStepKeepsTheHostInvariant := by
  intro s t hN hi h
  obtain ⟨-, rfl⟩ | ⟨m, rest, -, rfl⟩ := step_effect_cases h
  · exact HostStep.of_sameHost hi rfl rfl id
  · exact effect_hostStep (s := { s with moves := rest }) m hN hi

end Sys2Proof.Machine
end

section
/-! PROOFS. The family 60_exceptions: what becomes of a `MalformedByte` (R240, R241), the tick source (R250), and that DEC's steps
commute with the sequencer's and with the ticks (R12, R247). -/

namespace Sys2Proof.Machine

/-! ## `MalformedByte` (R240, R241) -/

theorem isMalformed_iff (p : Params) (q : DecState) (b : Byte) : isMalformed p q b = true ↔
    (128 ≤ b.toNat ∧ b.toNat / 16 ≠ p.noteOnNibble.toNat ∧ b.toNat / 16 ≠ p.noteOffNibble.toNat) ∨
    (b.toNat < 128 ∧ q = .awaitingStatus) := by
  have hclass := isStatus_iff b
  unfold isMalformed
  cases hb : isStatus b
  · have hlow : b.toNat < 128 := by simpa [hb] using hclass
    simp [hlow]
  · have hhigh : 128 ≤ b.toNat := hclass.1 hb
    simp [hhigh, opcodeNibble_eq_iff]

/-- `MalformedByte` empties the buffer for a status byte and keeps it for a data byte (R175, R176). -/
theorem decStep_of_isMalformed {p : Params} {q : DecState} {b : Byte} (h : isMalformed p q b = true) (buf : MsgBuf) :
    decStep p q buf b = raiseMalformedByte (if 128 ≤ b.toNat then ⟨none, 0#4, 0#8, 0#8⟩ else buf) := by
  obtain ⟨hb, hon, hoff⟩ | ⟨hb, rfl⟩ := (isMalformed_iff p q b).1 h
  · rw [decStep_status _ _ _ _ ((isStatus_iff b).2 hb), if_pos hb]
    exact decStatus_unrecognised (mt (opcodeNibble_eq_iff b _).1 hon) (mt (opcodeNibble_eq_iff b _).1 hoff) buf
  · rw [decStep_data _ _ _ _ (Bool.eq_false_iff.2 (mt (isStatus_iff b).1 hb.not_ge)), if_neg hb.not_ge]
    rfl

theorem decStatus_state (p : Params) (buf : MsgBuf) (b : Byte) : (decStatus p buf b).state =
    if opcodeNibble b = p.noteOnNibble ∨ opcodeNibble b = p.noteOffNibble then .awaitingNote else .awaitingStatus := by
  by_cases hon : opcodeNibble b = p.noteOnNibble
  · rw [decStatus_noteOn hon, if_pos (.inl hon)]
  by_cases hoff : opcodeNibble b = p.noteOffNibble
  · rw [decStatus_noteOff hoff (hoff ▸ hon), if_pos (.inr hoff)]
  · rw [decStatus_unrecognised hon hoff, if_neg (not_or.2 ⟨hon, hoff⟩)]

/-- `AwaitingStatus` is entered by the exception alone (R173 to R180). -/
theorem decStep_awaitingStatus_iff (p : Params) (q : DecState) (buf : MsgBuf) (b : Byte) :
    (decStep p q buf b).state = .awaitingStatus ↔ isMalformed p q b = true := by
  cases hb : isStatus b
  · rw [decStep_data p q buf b hb]
    cases q <;> simp [isMalformed, hb, decData, raiseMalformedByte]
  · rw [decStep_status p q buf b hb, decStatus_state]
    simp [isMalformed, hb]

/-- An input-byte row while no event waits: DEC answers by `decStep`, and nothing else changes but the port's byte. -/
theorem exec_inputByte {i : Instr} {b : Byte} {s : State} (h : i.byte? = some b) (hev : s.dec.evValid = false) :
    ∃ t, exec i s = .next t ∧
      t.dec = emit (decStep s.params s.dec.state s.dec.buf b).ev { s.dec with
        state := (decStep s.params s.dec.state s.dec.buf b).state, buf := (decStep s.params s.dec.state s.dec.buf b).buf } ∧
      t.port.rx = none ∧ SameButDec s t := by
  have htaken : takeByte b s = _ := takeByteFrom_ready s.dec.state b s hev
  exact ⟨takeByte b s, exec_byte h s, congrArg State.dec htaken, congrArg (·.port.rx) htaken,
    takeByteFrom_sameButDec s.dec.state b s⟩

theorem emit_state (e : Option NoteEvent) (d : Dec) : (emit e d).state = d.state := by
  cases e <;> rfl

/-- Settles O19: the byte's row is `decStep`, which enters `AwaitingStatus` by `raiseMalformedByte` alone. -/
theorem malformedByteIsAbsorbed : Obligations.MalformedByteIsAbsorbed := by
  intro s i b h hev
  obtain ⟨t, ht, hdec, hrest⟩ := exec_inputByte h hev
  have hstate : isMalformed s.params s.dec.state b = true ↔ t.dec.state = .awaitingStatus := by
    rw [hdec, emit_state, decStep_awaitingStatus_iff]
  refine ⟨t, ht, hstate.symm.trans (isMalformed_iff ..), hstate, fun hm => ⟨?_, hrest⟩⟩
  rw [hdec, decStep_of_isMalformed hm]
  rfl

/-! ## The tick source (R250) -/

/-- Settles O48: the move's effect is `tickSource`. -/
theorem tickSourceOnlyCounts : Obligations.TickSourceOnlyCounts := fun _ _ hm =>
  ⟨_, step_effect hm, rfl, rfl, rfl, rfl, rfl, rfl, rfl, rfl, rfl, rfl, .of_chip rfl rfl⟩

/-! ## What DEC reads and writes (R12, R247)

A byte row reads `dec` and the parameters and writes `dec` and the port's byte. The sequencer and the tick source neither read nor
write these two, so the orders agree. -/

/-- `s` with another `dec` and another byte on the port; `takeByte_eq_withInput` ties it to DEC's step. -/
def State.withInput (s : State) (d : Dec) (rx : Option Byte) : State :=
  { s with dec := d, port := { s.port with rx := rx } }

/-- DEC makes the same of states that agree in what it reads. -/
theorem takeByte_eq_withInput {s t : State} (hparams : t.params = s.params) (hdec : t.dec = s.dec)
    (hrx : t.port.rx = s.port.rx) (b : Byte) :
    takeByte b t = t.withInput (takeByte b s).dec (takeByte b s).port.rx := by
  cases hev : s.dec.evValid
  · rw [takeByte, takeByte, takeByteFrom_ready _ b s hev, takeByteFrom_ready _ b t (by rw [hdec, hev]), ← hparams, ← hdec]
    rfl
  · rw [takeByte, takeByte, takeByteFrom_waits _ b s hev, takeByteFrom_waits _ b t (by rw [hdec, hev]), ← hdec, ← hrx]
    rfl

theorem microStep_withInput (p : Phase) (s : State) (d : Dec) (rx : Option Byte) :
    microStep p (s.withInput d rx) = (microStep p s).withInput d rx := by
  cases p
  case idle =>
    rw [microStep_idle, microStep_idle]
    unfold State.withInput cmdReady acceptCommand
    dsimp only
    split
    · rfl
    · split
      · split <;> rfl
      · rfl
  case w2 | w4 | w6 | w10 | w13 | w15 | x2 =>
    rw [microStep_wait rfl, microStep_wait rfl]
    unfold State.withInput waitTicks elapsed
    dsimp only
    split <;> rfl
  all_goals rfl

theorem tickSource_withInput (s : State) (d : Dec) (rx : Option Byte) :
    tickSource (s.withInput d rx) = (tickSource s).withInput d rx := rfl

/-- A micro-step leaves what DEC reads and writes. -/
theorem microStep_keeps_input (p : Phase) (s : State) :
    (microStep p s).params = s.params ∧ (microStep p s).dec = s.dec ∧ (microStep p s).port.rx = s.port.rx := by
  have hs : microStep p s = (microStep p s).withInput s.dec s.port.rx := microStep_withInput p s s.dec s.port.rx
  obtain ⟨hparams, -⟩ := (microStep_busSide p).frame s
  exact ⟨hparams, by rw [hs]; rfl, by rw [hs]; rfl⟩

theorem takeByte_microStep (b : Byte) (p : Phase) (s : State) :
    takeByte b (microStep p s) = microStep p (takeByte b s) := by
  obtain ⟨hparams, hdec, hrx⟩ := microStep_keeps_input p s
  have hs : takeByte b s = s.withInput _ _ := takeByte_eq_withInput rfl rfl rfl b
  rw [takeByte_eq_withInput hparams hdec hrx b, ← microStep_withInput, ← hs]

theorem takeByte_tickSource (b : Byte) (s : State) : takeByte b (tickSource s) = tickSource (takeByte b s) := by
  have hs : takeByte b s = s.withInput _ _ := takeByte_eq_withInput rfl rfl rfl b
  rw [takeByte_eq_withInput (s := s) (t := tickSource s) rfl rfl rfl b, ← tickSource_withInput, ← hs]

/-- Settles O49: each row is its agent's step, and DEC's step commutes with the other two. -/
theorem decoderAndSequencerCommute : Obligations.DecoderAndSequencerCommute := by
  intro i p s hi
  obtain ⟨b, hb⟩ := Option.isSome_iff_exists.1 hi
  refine ⟨takeByte b s, microStep p s, microStep p (takeByte b s), exec_byte hb s, exec_phase p s, exec_phase p _, ?_, ?_⟩
  · rw [exec_byte hb, takeByte_microStep]
  · rw [exec_byte hb, takeByte_tickSource]

end Sys2Proof.Machine
end

section
/-! PROOFS. The family 70_reset_and_hazards: the block at its reset values (R44, R270), the target after the resets that reach it
(R146, R149, R271), and endless runs: a wait hangs without ticks, and with fair ticks every command ends (R141, R250, R277). -/

namespace Sys2Proof.Machine

/-! ## The assertion of `rst` and its release (R44, R215, R270) -/

/-- Settles O11: the assertion's effect is `blockReset`, and the release's is `hostInit`, whose own part is the host. -/
theorem blockResetPutsEveryElementAtItsResetValue : Obligations.BlockResetPutsEveryElementAtItsResetValue := by
  refine ⟨fun s rest hm => ⟨_, step_effect hm, rfl, rfl, rfl, rfl, rfl, Nat.mod_lt _ (by positivity), rfl, rfl⟩,
    ⟨rfl, rfl, rfl, rfl, rfl, rfl, rfl, Nat.mod_lt _ (by positivity)⟩, fun s rest hm hr => ?_⟩
  have hinit : Move.effect .rstRelease { s with moves := rest } =
      hostInit { s with moves := rest, port := { s.port with rst := false } } := if_pos hr
  exact ⟨_, (step_effect hm).trans (congrArg _ hinit), rfl, rfl, rfl, rfl, rfl, rfl, rfl, rfl, rfl, rfl, rfl⟩

/-! ## The target after a reset (R146, R149, R152, R271) -/

/-- The target's latch and registers in `t` hold the free values that came next in `s`. -/
def TargetForgotten (s t : State) : Prop :=
  t.chip.latch = Config.chipByte s.chip.draws ∧ (∀ a : Byte, chipRead t a = Config.chipReg s.chip.draws a.toNat) ∧
    s.chip.draws < t.chip.draws

/-- It is so whatever became of the observer's quiet time and window besides. -/
theorem targetForgotten_of_anyValue {s t : State} {n : Nat} {w : Option Window}
    (h : t.chip = { s.chip.anyValue with stable := n, window := w }) : TargetForgotten s t := by
  unfold TargetForgotten chipRead
  rw [h]
  exact ⟨rfl, fun _ => rfl, Nat.lt_succ_self _⟩

/-- A move of the target's reset line alone is nothing the observer counts (R152). -/
theorem Chip.observe_ic (p : Params) (l : Lines) (ic : IcLine) (c : Chip) : c.observe p l { l with ic := ic } = c :=
  (Chip.observe_sameCs p l { l with ic := ic } c rfl).trans (if_pos (by simp [Lines.sameBus]))

theorem microStep_x0_chip (s : State) : (microStep .x0 s).chip = s.chip.anyValue :=
  congrArg Chip.anyValue (Chip.observe_ic s.params s.line .asserted s.chip)

theorem microStep_x3_chip (s : State) : (microStep .x3 s).chip = s.chip.anyValue :=
  congrArg Chip.anyValue (Chip.observe_ic s.params s.line .deasserted s.chip)

/-- A window that `rst` cuts short is a bad cycle (R271). -/
theorem Chip.cutByReset_selected {x : Lines} (hcs : x.cs = .asserted) (y : Lines) (c : Chip) :
    ∃ n, c.cutByReset x y = { c.anyValue with stable := n, window := none } := by
  unfold Chip.cutByReset
  rw [if_pos hcs]
  dsimp only
  split <;> exact ⟨_, rfl⟩

/-- Outside a window the target keeps its latch and registers over `rst` (R271). -/
theorem Chip.cutByReset_unselected {x : Lines} (hcs : x.cs ≠ .asserted) (y : Lines) (c : Chip) :
    (c.cutByReset x y).latch = c.latch ∧ (c.cutByReset x y).reg = c.reg ∧ (c.cutByReset x y).regDraw = c.regDraw := by
  unfold Chip.cutByReset
  rw [if_neg hcs]
  dsimp only
  split <;> exact ⟨rfl, rfl, rfl⟩

/-- Settles O47: `X0` and `X3` end in `Chip.anyValue`, and so does `rst` exactly in a window. -/
theorem resetsOfTheTargetLeaveItUnknown : Obligations.ResetsOfTheTargetLeaveItUnknown := by
  refine ⟨fun s => ⟨⟨_, exec_phase .x0 s, targetForgotten_of_anyValue (microStep_x0_chip s)⟩,
    ⟨_, exec_phase .x3 s, targetForgotten_of_anyValue (microStep_x3_chip s)⟩⟩, fun s rest hm => ?_⟩
  refine ⟨_, step_effect hm, fun hcs => ?_, fun hcs => ?_, rfl, rfl⟩
  · obtain ⟨n, hn⟩ := Chip.cutByReset_selected hcs (Lines.atReset s.params) s.chip
    obtain ⟨hlatch, hreg, hdraws⟩ := targetForgotten_of_anyValue (t := Move.effect .rstAssert { s with moves := rest }) hn
    exact ⟨hlatch, hreg, hdraws, congrArg Chip.window hn⟩
  · obtain ⟨hlatch, hreg, hdraw⟩ := Chip.cutByReset_unselected hcs (Lines.atReset s.params) s.chip
    exact ⟨hlatch, .of_chip hreg hdraw⟩

/-! ## A wait without ticks (R250, R277) -/

theorem State.after_eq_effect (s : State) (m : Move) : s.after m = m.effect { s with moves := [] } :=
  State.after_next (step_effect rfl)

theorem SameSequencer.trans {s t u : State} (h : SameSequencer s t) (h' : SameSequencer t u) : SameSequencer s u := by
  obtain ⟨hparams, hbus, hline, htick, hchip⟩ := h
  obtain ⟨hparams', hbus', hline', htick', hchip'⟩ := h'
  exact ⟨hparams'.trans hparams, hbus'.trans hbus, hline'.trans hline, htick'.trans htick, hchip'.trans hchip⟩

theorem SameSequencer.elapsed {s t : State} (h : SameSequencer s t) : elapsed t = elapsed s := by
  obtain ⟨hparams, hbus, -, htick, -⟩ := h
  rw [Machine.elapsed, Machine.elapsed, hparams, hbus, htick]

theorem wait_ne_idle {ph : Phase} {p : Params} {n : Nat} (h : ph.wait? p = some n) : ph ≠ .idle := by
  rintro rfl
  contradiction

/-- While a wait has not had its ticks, only a tick and the assertion of `rst` touch the sequencer. -/
theorem effect_of_unfinished_wait {m : Move} (ht : m ≠ .tick) (hr : m ≠ .rstAssert) {s : State} {n : Nat}
    (hn : s.bus.phase.wait? s.params = some n) (he : elapsed s < n) : SameSequencer s (m.effect s) := by
  obtain rfl | rfl | hsame | ⟨hgo, -⟩ | ⟨hidle, -⟩ := effect_sequencer_cases m s
  · contradiction
  · contradiction
  · exact hsame
  · exact absurd (hgo.waited n hn) (Nat.not_le.2 he)
  · exact absurd hidle (wait_ne_idle hn)

theorem runUnder_without_ticks {sched : Nat → Move} (ht : ∀ k, sched k ≠ .tick) (hr : ∀ k, sched k ≠ .rstAssert) {s : State}
    {n : Nat} (hn : s.bus.phase.wait? s.params = some n) (he : elapsed s < n) (k : Nat) :
    SameSequencer s (runUnder sched s k) := by
  induction k with
  | zero => exact .refl s
  | succ k ih =>
    have hn' : (runUnder sched s k).bus.phase.wait? (runUnder sched s k).params = some n := by
      obtain ⟨hparams, hbus, -⟩ := ih
      rw [hparams, hbus, hn]
    rw [runUnder_succ, State.after_eq_effect]
    exact ih.trans (effect_of_unfinished_wait (s := { runUnder sched s k with moves := [] }) (ht k) (hr k) hn'
      (ih.elapsed.trans_lt he))

/-! ## Endless runs with fair ticks (R141, R277) -/

theorem acceptCommand_t0 (w : CmdWord) (s : State) : (acceptCommand w s).bus.t0 = s.bus.t0 := by
  unfold acceptCommand
  split <;> rfl

/-- Every move keeps the parameters and both tick counts below `2^TICK_W` (R7, R30, R37). -/
theorem effect_counts_lt (m : Move) {s : State} (htick : s.tick < 2 ^ s.params.tickW) (ht0 : s.bus.t0 < 2 ^ s.params.tickW) :
    (m.effect s).params = s.params ∧ (m.effect s).tick < 2 ^ s.params.tickW ∧ (m.effect s).bus.t0 < 2 ^ s.params.tickW := by
  obtain rfl | rfl | ⟨hparams, hbus, -, htick', -⟩ | ⟨hgo, he⟩ | ⟨-, w, he⟩ := effect_sequencer_cases m s
  · exact ⟨rfl, Nat.mod_lt _ (by positivity), ht0⟩
  · exact ⟨rfl, Nat.mod_lt _ (by positivity), Nat.mod_lt _ (by positivity)⟩
  · rw [hparams, hbus, htick']
    exact ⟨rfl, htick, ht0⟩
  · obtain ⟨hparams, -, htick', -⟩ := microStep_sameButBus hgo.busy s
    rw [he, hparams, htick', microStep_bus hgo.busy hgo.waited]
    refine ⟨rfl, htick, ?_⟩
    dsimp only
    split
    · exact htick
    · exact ht0
  · rw [he, acceptCommand_params, acceptCommand_tick, acceptCommand_t0]
    exact ⟨rfl, htick, ht0⟩

/-- The hypotheses under which the waits of the endless run from `s` end (R141, R277). Every later state of the run with the moves
still to come meets them again (`Running.later`). -/
structure Running (sched : Nat → Move) (s : State) : Prop where
  tick_lt : s.tick < 2 ^ s.params.tickW
  t0_lt : s.bus.t0 < 2 ^ s.params.tickW
  released : s.port.rst = false
  noReset : ∀ k, sched k ≠ .rstAssert
  fair : TickFair sched
  notStarved : BusNotStarved s.params sched

theorem Running.keeps {sched : Nat → Move} {s : State} (h : Running sched s) (k : Nat) :
    (runUnder sched s k).params = s.params ∧ (runUnder sched s k).tick < 2 ^ s.params.tickW ∧
    (runUnder sched s k).bus.t0 < 2 ^ s.params.tickW ∧ (runUnder sched s k).port.rst = false := by
  induction k with
  | zero => exact ⟨rfl, h.tick_lt, h.t0_lt, h.released⟩
  | succ k ih =>
    obtain ⟨hparams, htick, ht0, hr⟩ := ih
    rw [← hparams] at htick ht0
    rw [runUnder_succ, State.after_eq_effect]
    obtain ⟨hparams', htick', ht0'⟩ := effect_counts_lt (sched k) (s := { runUnder sched s k with moves := [] }) htick ht0
    rw [← hparams]
    exact ⟨hparams', htick', ht0', (effect_noInput (h.noReset k) _).2 hr⟩

theorem Running.later {sched : Nat → Move} {s : State} (h : Running sched s) (k : Nat) :
    Running (fun j => sched (k + j)) (runUnder sched s k) := by
  obtain ⟨hparams, htick, ht0, hr⟩ := h.keeps k
  exact ⟨hparams ▸ htick, hparams ▸ ht0, hr, fun j => h.noReset (k + j), h.fair.shift k, hparams ▸ h.notStarved.shift k⟩

/-! ### The end of a wait -/

theorem wait_mem {ph : Phase} {p : Params} {n : Nat} (h : ph.wait? p = some n) :
    n ∈ [p.tSettle, p.tAddrLatch, p.tDataLatch, p.tResetPark] := by
  cases ph
  case w2 | w4 | w6 | w10 | w13 | w15 | x2 =>
    rw [← Option.some.inj h]
    simp
  all_goals contradiction

/-- In a wait, before BUS's turn finds the ticks elapsed, `bus` stays and the tick source counts. -/
theorem Running.wait_holds {sched : Nat → Move} {s : State} (h : Running sched s) {n : Nat}
    (hn : s.bus.phase.wait? s.params = some n) {k : Nat} (hearly : ∀ j < k, sched j = .bus →
      (elapsed s + ticksAmong sched 0 j) % 2 ^ s.params.tickW < n) : (runUnder sched s k).bus = s.bus ∧
      (runUnder sched s k).tick = (s.tick + ticksAmong sched 0 k) % 2 ^ s.params.tickW := by
  induction k with
  | zero => exact ⟨rfl, (Nat.mod_eq_of_lt h.tick_lt).symm⟩
  | succ k ih =>
    obtain ⟨hbus, htick⟩ := ih fun j hj => hearly j (hj.trans (Nat.lt_succ_self k))
    obtain ⟨hparams, hlt, -⟩ := h.keeps k
    have he := elapsed_of_ticks h.t0_lt hparams hbus htick
    have hn' : (runUnder sched s k).bus.phase.wait? (runUnder sched s k).params = some n := by rw [hbus, hparams, hn]
    rw [runUnder_succ, State.after_eq_effect, ticksAmong_succ, Nat.zero_add]
    by_cases hb : sched k = .bus
    · obtain ⟨-, hbus', -, htick', -⟩ := effect_of_unfinished_wait (s := { runUnder sched s k with moves := [] })
        (by rw [hb]; decide) (h.noReset k) hn' (he.trans_lt (hearly k (Nat.lt_succ_self k) hb))
      rw [if_neg (by rw [hb]; decide)]
      exact ⟨hbus'.trans hbus, htick'.trans htick⟩
    · obtain ⟨-, hbus', htick'⟩ := effect_of_otherAgent hb (h.noReset k) (s := { runUnder sched s k with moves := [] })
        (wait_ne_w7 hn') (hparams ▸ hlt)
      refine ⟨hbus'.trans hbus, ?_⟩
      rw [htick', List.count_singleton, htick, hparams, Nat.mod_add_mod, Nat.add_assoc]
      simp only [beq_iff_eq]

/-- The wait ends at BUS's first turn that finds its ticks elapsed, and such a turn comes (R141). -/
theorem Running.wait_ends {sched : Nat → Move} {s : State} (h : Running sched s) {n : Nat}
    (hn : s.bus.phase.wait? s.params = some n) : ∃ k, sched k = .bus ∧ (∀ j, j ≤ k → (runUnder sched s j).bus = s.bus) ∧
      (runUnder sched s (k + 1)).bus = { s.bus with phase := s.bus.phase.succ } := by
  have hturn := h.notStarved.polled_in_time h.fair (wait_mem hn) (e := elapsed s) (modDiff_lt ..)
  obtain ⟨hb, hover⟩ := Nat.find_spec hturn
  have hearly : ∀ j < Nat.find hturn, sched j = .bus → (elapsed s + ticksAmong sched 0 j) % 2 ^ s.params.tickW < n :=
    fun j hj hbj => Nat.not_le.1 fun hle => Nat.find_min hturn hj ⟨hbj, hle⟩
  generalize Nat.find hturn = k at *
  refine ⟨k, hb, fun j hj => And.left (h.wait_holds hn fun i hi => hearly i (hi.trans_le hj)), ?_⟩
  obtain ⟨hbus, htick⟩ := h.wait_holds hn hearly
  obtain ⟨hparams, -, -, hr⟩ := h.keeps k
  rw [← elapsed_of_ticks h.t0_lt hparams hbus htick] at hover
  rw [runUnder_succ, State.after_eq_effect, hb, effect_bus_of_released (by exact hr),
    microStep_wait (n := n) (by rw [hbus, hparams, hn]), waitTicks_over (by exact hover), hbus]

/-! ### The end of a command -/

/-- A run leaves a phase only for its successor. -/
theorem Running.phase_stays_or_goes_on {sched : Nat → Move} {s : State} (h : Running sched s) (hp : s.bus.phase ≠ .idle)
    (k : Nat) : (runUnder sched s k).bus.phase = s.bus.phase ∨ ∃ j, (runUnder sched s j).bus.phase = s.bus.phase.succ := by
  induction k with
  | zero => exact .inl rfl
  | succ k ih =>
    obtain hk | hdone := ih
    · have hstep := State.after_eq_effect (runUnder sched s k) (sched k)
      rw [← runUnder_succ] at hstep
      obtain hsame | ⟨-, -, hsucc, -⟩ | ⟨-, hidle, -⟩ | ⟨hr, -⟩ :=
        effect_phase_cases (sched k) { runUnder sched s k with moves := [] }
      · exact .inl (by rw [hstep, hsame, hk])
      · exact .inr ⟨k + 1, by rw [hstep, hsucc, hk]⟩
      · exact absurd (hk.symm.trans hidle) hp
      · exact absurd hr (h.noReset k)
    · exact .inr hdone

/-- Every phase of a command is left, a wait by its end and another phase by BUS's next turn at the latest. -/
theorem Running.goes_on {sched : Nat → Move} {s : State} (h : Running sched s) (hp : s.bus.phase ≠ .idle) :
    ∃ k, (runUnder sched s k).bus.phase = s.bus.phase.succ := by
  cases hn : s.bus.phase.wait? s.params with
  | some n =>
    obtain ⟨k, -, -, hk⟩ := h.wait_ends hn
    exact ⟨k + 1, by rw [hk]⟩
  | none =>
    obtain ⟨k, hb, -⟩ := h.notStarved.next_turn h.fair 0
    rw [Nat.zero_add] at hb
    obtain hk | hdone := h.phase_stays_or_goes_on hp k
    · obtain ⟨hparams, -, -, hr⟩ := h.keeps k
      refine ⟨k + 1, ?_⟩
      rw [runUnder_succ, State.after_eq_effect, hb, effect_bus_of_released (by exact hr), ← hk]
      exact microStep_phase_of_no_wait (by rwa [hk]) (by rw [hk, hparams, hn])
    · exact hdone

/-- The longest command, WRITE, has 19 micro-steps (R121). -/
theorem Phase.succ_iterate_idle (ph : Phase) : Phase.succ^[19] ph = .idle := by
  cases ph <;> rfl

theorem Running.reaches_idle {sched : Nat → Move} {s : State} (h : Running sched s) {n : Nat}
    (hn : Phase.succ^[n] s.bus.phase = .idle) : ∃ k, (runUnder sched s k).bus.phase = .idle := by
  induction n generalizing sched s with
  | zero => exact ⟨0, hn⟩
  | succ n ih =>
    by_cases hp : s.bus.phase = .idle
    · exact ⟨0, hp⟩
    · obtain ⟨k, hk⟩ := h.goes_on hp
      obtain ⟨j, hj⟩ := ih (h.later k) (by rw [hk]; exact hn)
      exact ⟨k + j, by rw [runUnder_add, hj]⟩

/-- Settles O42: without ticks by `runUnder_without_ticks`; with fair ticks by `Running.wait_ends`, and by `Running.reaches_idle` from
every state of the run. -/
theorem waitsHangWithoutTicksAndCommandsEndWithFairTicks : Obligations.WaitsHangWithoutTicksAndCommandsEndWithFairTicks := by
  intro s sched htick ht0 hr
  refine ⟨fun n hn he ht k => ?_, fun hrst hfair hpolled => ?_⟩
  · obtain ⟨-, hbus, hline, -⟩ := runUnder_without_ticks ht hr hn he k
    refine ⟨hbus, hline, (busy_iff _).2 (hbus ▸ wait_ne_idle hn), fun hi hp => ?_⟩
    obtain ⟨hcs, -⟩ := linesFor_of_window hi.lines (hp.imp_right fun h => .inr (.inl h))
    rw [hline, hcs]
  · have h : Running sched s := ⟨htick, ht0, hrst, hr, hfair, hpolled⟩
    refine ⟨fun n hn => h.wait_ends hn, fun i => ?_⟩
    obtain ⟨k, hk⟩ := (h.later i).reaches_idle (Phase.succ_iterate_idle _)
    exact ⟨i + k, Nat.le_add_right i k, by rw [runUnder_add, hk]⟩

end Sys2Proof.Machine
end
